-- ==== Sys2Proof/Word.lean ====
section
/-! DEFINITION. The 32-bit word of commands, data and responses (30_encoding.md R70, R84). -/

namespace Sys2Proof

/-- A 32-bit command word, data word or response DATA (30_encoding.md R70, R84). -/
abbrev Word := BitVec 32

end Sys2Proof
end

