-- ==== Sys2Proof/Config.lean ====
section
/-! DEFINITION. The open parameters of the hardware (00_scope.md R9) and the values the spec leaves free. -/

namespace Sys2Proof

/-- P_BPS, bytes per sample: one of {1, 2, 3, 4} (00_scope.md R9, D37). -/
inductive BytesPerSample where
  | one
  | two
  | three
  | four
  deriving DecidableEq, Repr

/-- The number P_BPS stands for. -/
def BytesPerSample.bytes : BytesPerSample → Nat
  | .one => 1
  | .two => 2
  | .three => 3
  | .four => 4

/-- The parameters a model takes as arguments (00_scope.md R9).
P_NS is held as P_NS - 1, so that exactly 1 <= P_NS <= 65536 can be written down.
P_TICK is not here: no rule of the model reads it (log 13). -/
structure Config where
  /-- P_NS - 1 -/
  nsPred    : Fin 65536
  /-- P_BPS -/
  bps       : BytesPerSample
  /-- P_RESET_RATE -/
  resetRate : BitVec 20
  /-- P_RESET_SIZE -/
  resetSize : BitVec 6
  deriving DecidableEq, Repr

/-- P_NS, samples per block. -/
def Config.ns (c : Config) : Nat := c.nsPred.val + 1

/-- SW = 8 * P_BPS, the width of a sample word. -/
def Config.sw (c : Config) : Nat := 8 * c.bps.bytes

/-- The free values of `draw(N)` (00_scope.md R12): the k-th draw of a run, under no law.
A draw of fewer than 32 bits keeps the low bits. No body: nothing can evaluate it (log 6). -/
opaque Config.freeWord : Nat → Word

/-- P_RESET_RATE of the machine `State.reset` describes: open (D25), so it has no body (log 2). -/
opaque Config.freeResetRate : BitVec 20

/-- P_RESET_SIZE of the machine `State.reset` describes: open (D25), so it has no body (log 2). -/
opaque Config.freeResetSize : BitVec 6

/-- The parameters of the one machine `State.reset` describes.
DESIGN CHOICE P_NS = 1 and P_BPS = 2, the convention of 95_test_vectors.md section 0 (log 1). -/
def Config.chosen : Config :=
  { nsPred := 0, bps := .two, resetRate := Config.freeResetRate, resetSize := Config.freeResetSize }

end Sys2Proof
end

