-- ==== Sys2Proof/Syntax.lean ====
section
/-! DEFINITION. The command set PPBA-CMD-1 as syntax (30_encoding.md R72): one constructor per opcode-table row. -/

namespace Sys2Proof

/-- The three command ports (00_scope.md R7): H for HOST, C for CONS, E for ENG. -/
inductive Port where
  | host
  | consumer
  | engine
  deriving DecidableEq, Repr

/-- DIR: 0 input, 1 output (00_scope.md R8). -/
inductive Dir where
  | input
  | output
  deriving DecidableEq, Repr

/-- CH: 0 left, 1 right (00_scope.md R8). -/
inductive Channel where
  | left
  | right
  deriving DecidableEq, Repr

/-- The opcodes that name a command (30_encoding.md R72); 0x0 and 0xF name none. -/
inductive Opcode where
  | init
  | start
  | stop
  | wdrain
  | reconf
  | stat
  | bufrd
  | take
  | done
  | crd
  | cwr
  | evt
  | ewr
  | erd
  deriving DecidableEq, Repr

/-- The command formats of 30_encoding.md R74 to R81. -/
inductive Format where
  | n
  | s
  | e
  | t
  | r
  | ah
  | ac
  | ae
  deriving DecidableEq, Repr

/-- A command with its operands. One-bit operands are Bool, `true` for 1.
OFF and TMO are the fields' bits; OFF is compared with P_NS as an unsigned number (30_encoding.md R82). -/
inductive Instr where
  /-- INIT (R102) -/
  | init
  /-- START (R151) -/
  | start
  /-- STOP (R153) -/
  | stop
  /-- WDRAIN tmo (R155) -/
  | wdrain (tmo : BitVec 24)
  /-- RECONF rate, size (R157) -/
  | reconf (rate : BitVec 20) (size : BitVec 6)
  /-- STAT sel (R170) -/
  | stat (sel : Bool)
  /-- BUFRD dir, ch, half, off (R171) -/
  | bufrd (dir : Dir) (ch : Channel) (half : Bool) (off : BitVec 16)
  /-- TAKE tmo (R122) -/
  | take (tmo : BitVec 24)
  /-- DONE (R135) -/
  | done
  /-- CRD ch, off (R136) -/
  | crd (ch : Channel) (off : BitVec 16)
  /-- CWR ch, off, value (R137) -/
  | cwr (ch : Channel) (off : BitVec 16) (dw : Word)
  /-- EVT tc (R103) -/
  | evt (tc : Bool)
  /-- EWR ch, half, off, value (R105) -/
  | ewr (ch : Channel) (half : Bool) (off : BitVec 16) (dw : Word)
  /-- ERD ch, half, off (R106) -/
  | erd (ch : Channel) (half : Bool) (off : BitVec 16)
  deriving DecidableEq, Repr

end Sys2Proof
end

