-- ==== Sys2Proof/WellFormed.lean ====
section
/-! DEFINITION. Which commands are legal on a machine of given parameters.
The operand types already bound every field to its bits; what is left is the one range check of 30_encoding.md R82. -/

namespace Sys2Proof

/-- The OFF operand of a command that has one: BUFRD, CRD, CWR, EWR, ERD (`has_off` of 30_encoding.md R86). -/
def Instr.offset : Instr → Option (BitVec 16)
  | .init => none
  | .start => none
  | .stop => none
  | .wdrain _ => none
  | .reconf _ _ => none
  | .stat _ => none
  | .bufrd _ _ _ off => some off
  | .take _ => none
  | .done => none
  | .crd _ off => some off
  | .cwr _ off _ => some off
  | .evt _ => none
  | .ewr _ _ off _ => some off
  | .erd _ _ off => some off

/-- A command is well formed when its OFF, if it has one, is below P_NS (30_encoding.md R82, R83 item 4). -/
def Instr.wf (c : Config) (i : Instr) : Bool :=
  match i.offset with
  | none => true
  | some off => decide (off.toNat < c.ns)

end Sys2Proof
end

