-- ==== Sys2Proof/Decode.lean ====
section
/-! DEFINITION. The decoder of PPBA-CMD-1 (30_encoding.md R86), total on any words and rejecting by name, and the encoder
written from the format tables R74 to R81. -/

namespace Sys2Proof

/-- The value of the OP field, from the opcode map (30_encoding.md R72). -/
def Opcode.bits : Opcode → BitVec 4
  | .init => 0x1#4
  | .start => 0x2#4
  | .stop => 0x3#4
  | .wdrain => 0x4#4
  | .reconf => 0x5#4
  | .stat => 0x6#4
  | .bufrd => 0x7#4
  | .take => 0x8#4
  | .done => 0x9#4
  | .crd => 0xA#4
  | .cwr => 0xB#4
  | .evt => 0xC#4
  | .ewr => 0xD#4
  | .erd => 0xE#4

/-- The command an OP field names; 0x0 and 0xF are reserved (30_encoding.md R72, R83 item 1). -/
def Opcode.ofBits (op : BitVec 4) : Option Opcode :=
  match op.toNat with
  | 0x1 => some .init
  | 0x2 => some .start
  | 0x3 => some .stop
  | 0x4 => some .wdrain
  | 0x5 => some .reconf
  | 0x6 => some .stat
  | 0x7 => some .bufrd
  | 0x8 => some .take
  | 0x9 => some .done
  | 0xA => some .crd
  | 0xB => some .cwr
  | 0xC => some .evt
  | 0xD => some .ewr
  | 0xE => some .erd
  | _ => none

/-- `port_of`: the one port that accepts the command (30_encoding.md R72, R73). -/
def Opcode.port : Opcode → Port
  | .init => .host
  | .start => .host
  | .stop => .host
  | .wdrain => .host
  | .reconf => .host
  | .stat => .host
  | .bufrd => .host
  | .take => .consumer
  | .done => .consumer
  | .crd => .consumer
  | .cwr => .consumer
  | .evt => .engine
  | .ewr => .engine
  | .erd => .engine

/-- `format_of` (30_encoding.md R72). -/
def Opcode.format : Opcode → Format
  | .init => .n
  | .start => .n
  | .stop => .n
  | .wdrain => .t
  | .reconf => .r
  | .stat => .s
  | .bufrd => .ah
  | .take => .t
  | .done => .n
  | .crd => .ac
  | .cwr => .ac
  | .evt => .e
  | .ewr => .ae
  | .erd => .ae

/-- The mask of each format: the bits that are fixed (30_encoding.md R74 to R81). -/
def Format.mask : Format → Word
  | .n => 0xFFFFFFFF#32
  | .s => 0xFFFFFFFE#32
  | .e => 0xFFFFFFFE#32
  | .t => 0xFF000000#32
  | .r => 0xFC000000#32
  | .ah => 0xF1FF0000#32
  | .ac => 0xFBFF0000#32
  | .ae => 0xF9FF0000#32

/-- `match(OP)` = OP << 28 (30_encoding.md R74, R86). -/
def Opcode.pattern (op : Opcode) : Word := op.bits.setWidth 32 <<< 28

/-- CW[31:28], the OP field (30_encoding.md R70). -/
def opField (cw : Word) : BitVec 4 := cw.extractLsb' 28 4

/-- A command is two words long exactly when its OP is 0xB or 0xD, whatever the port (30_encoding.md R71, R83; log 9). -/
def twoWords (cw : Word) : Bool := opField cw == 0xB#4 || opField cw == 0xD#4

/-- DIR from its bit (30_encoding.md R79). -/
def Dir.ofBit (b : Bool) : Dir := if b then .output else .input

/-- CH from its bit (30_encoding.md R79 to R81). -/
def Channel.ofBit (b : Bool) : Channel := if b then .right else .left

/-- The bit of a DIR (00_scope.md R8). -/
def Dir.bit : Dir → Bool
  | .input => false
  | .output => true

/-- The bit of a CH (00_scope.md R8). -/
def Channel.bit : Channel → Bool
  | .left => false
  | .right => true

/-- `fields(CW)`: the operands, read straight from their bits (30_encoding.md R75 to R82). -/
def operandsOf (op : Opcode) (cw dw : Word) : Instr :=
  match op with
  | .init => .init
  | .start => .start
  | .stop => .stop
  | .wdrain => .wdrain (cw.extractLsb' 0 24)
  | .reconf => .reconf (cw.extractLsb' 0 20) (cw.extractLsb' 20 6)
  | .stat => .stat (cw.getLsbD 0)
  | .bufrd => .bufrd (Dir.ofBit (cw.getLsbD 27)) (Channel.ofBit (cw.getLsbD 26)) (cw.getLsbD 25) (cw.extractLsb' 0 16)
  | .take => .take (cw.extractLsb' 0 24)
  | .done => .done
  | .crd => .crd (Channel.ofBit (cw.getLsbD 26)) (cw.extractLsb' 0 16)
  | .cwr => .cwr (Channel.ofBit (cw.getLsbD 26)) (cw.extractLsb' 0 16) dw
  | .evt => .evt (cw.getLsbD 0)
  | .ewr => .ewr (Channel.ofBit (cw.getLsbD 26)) (cw.getLsbD 25) (cw.extractLsb' 0 16) dw
  | .erd => .erd (Channel.ofBit (cw.getLsbD 26)) (cw.getLsbD 25) (cw.extractLsb' 0 16)

/-- The four causes of ILLEGAL (30_encoding.md R83). -/
inductive DecodeError where
  /-- OP is 0x0 or 0xF (R83 item 1). -/
  | reservedOpcode
  /-- OP names a command of another port (R83 item 2). -/
  | wrongPort
  /-- A reserved bit of the format is 1 (R83 item 3). -/
  | reservedBit
  /-- OFF >= P_NS (R83 item 4). -/
  | offsetRange
  deriving DecidableEq, Repr

/-- The decoder of 30_encoding.md R86 for one port, one command word and, for a two-word command, its data word. -/
def decode (c : Config) (p : Port) (cw dw : Word) : Except DecodeError Instr :=
  match Opcode.ofBits (opField cw) with
  | none => .error .reservedOpcode
  | some op =>
    if op.port ≠ p then .error .wrongPort
    else if cw &&& op.format.mask ≠ op.pattern then .error .reservedBit
    else if (operandsOf op cw dw).wf c then .ok (operandsOf op cw dw)
    else .error .offsetRange

/-- A word's command apart from the port it arrives on and from the machine's P_NS: opcode and reserved bits only. -/
def decodeWord (cw dw : Word) : Except DecodeError Instr :=
  match Opcode.ofBits (opField cw) with
  | none => .error .reservedOpcode
  | some op =>
    if cw &&& op.format.mask ≠ op.pattern then .error .reservedBit
    else .ok (operandsOf op cw dw)

/-- The opcode of a command. -/
def Instr.opcode : Instr → Opcode
  | .init => .init
  | .start => .start
  | .stop => .stop
  | .wdrain _ => .wdrain
  | .reconf _ _ => .reconf
  | .stat _ => .stat
  | .bufrd _ _ _ _ => .bufrd
  | .take _ => .take
  | .done => .done
  | .crd _ _ => .crd
  | .cwr _ _ _ => .cwr
  | .evt _ => .evt
  | .ewr _ _ _ _ => .ewr
  | .erd _ _ _ => .erd

/-- The port that accepts the command. -/
def Instr.port (i : Instr) : Port := i.opcode.port

/-- A bit as a 32-bit number. -/
def bit32 (b : Bool) : Word := if b then 1#32 else 0#32

/-- The command word, as each command's rule writes it: OP at bit 28, the fields at their places, reserved bits 0
(30_encoding.md R74 to R81). -/
def Instr.cw : Instr → Word
  | .init => 0x10000000#32
  | .start => 0x20000000#32
  | .stop => 0x30000000#32
  | .wdrain tmo => 0x40000000#32 ||| tmo.setWidth 32
  | .reconf rate size => 0x50000000#32 ||| size.setWidth 32 <<< 20 ||| rate.setWidth 32
  | .stat sel => 0x60000000#32 ||| bit32 sel
  | .bufrd dir ch half off =>
    0x70000000#32 ||| bit32 dir.bit <<< 27 ||| bit32 ch.bit <<< 26 ||| bit32 half <<< 25 ||| off.setWidth 32
  | .take tmo => 0x80000000#32 ||| tmo.setWidth 32
  | .done => 0x90000000#32
  | .crd ch off => 0xA0000000#32 ||| bit32 ch.bit <<< 26 ||| off.setWidth 32
  | .cwr ch off _ => 0xB0000000#32 ||| bit32 ch.bit <<< 26 ||| off.setWidth 32
  | .evt tc => 0xC0000000#32 ||| bit32 tc
  | .ewr ch half off _ => 0xD0000000#32 ||| bit32 ch.bit <<< 26 ||| bit32 half <<< 25 ||| off.setWidth 32
  | .erd ch half off => 0xE0000000#32 ||| bit32 ch.bit <<< 26 ||| bit32 half <<< 25 ||| off.setWidth 32

/-- The data word of a two-word command (30_encoding.md R71). -/
def Instr.dw : Instr → Option Word
  | .init => none
  | .start => none
  | .stop => none
  | .wdrain _ => none
  | .reconf _ _ => none
  | .stat _ => none
  | .bufrd _ _ _ _ => none
  | .take _ => none
  | .done => none
  | .crd _ _ => none
  | .cwr _ _ dw => some dw
  | .evt _ => none
  | .ewr _ _ _ dw => some dw
  | .erd _ _ _ => none

/-- The words of a command, in the order they arrive: CW, then DW of a two-word command (30_encoding.md R71). -/
def encode (i : Instr) : List Word := i.cw :: i.dw.toList

/-- The word with the low `nbits` bits of `w`, cut at 32 bits a word: the command word and the data word. -/
def tableWords (nbits w : Nat) : Word × Word :=
  (BitVec.ofNat 32 (w % 2 ^ nbits), BitVec.ofNat 32 (w % 2 ^ nbits / 2 ^ 32))

/-- What the decoder reads from an opcode-table word, on the port that accepts its opcode.
OFF is not compared with P_NS here: an opcode-table word belongs to no machine in particular. -/
def decodeTableWord (nbits w : Nat) : Option Instr :=
  match decodeWord (tableWords nbits w).1 (tableWords nbits w).2 with
  | .ok i => some i
  | .error _ => none

end Sys2Proof
end

