-- ==== Sys2Proof/Machine/State.lean ====
section
/-! DEFINITION. The state of the PPBA (10_state.md R22) with the agents' side of its ports, as plain data, and the state after reset. -/

namespace Sys2Proof.Machine

/-- STATE, the StreamState (10_state.md R23). -/
inductive StreamState where
  /-- 0 -/
  | idle
  /-- 1 -/
  | streaming
  /-- 2 -/
  | stopRequested
  /-- 3 -/
  | draining
  deriving DecidableEq, Repr

/-- SLOT, the one-entry ready channel (10_state.md R26). -/
structure Slot where
  full  : Bool
  idx   : Bool
  final : Bool
  deriving DecidableEq, Repr

/-- HELD, the block the consumer holds (10_state.md R27); `ovr` is the model-only ghost bit. -/
structure Held where
  valid : Bool
  idx   : Bool
  final : Bool
  ovr   : Bool
  deriving DecidableEq, Repr

/-- The model faults of 60_exceptions.md R186. -/
inductive ModelFault where
  /-- SW_OVERRUN: CRD or CWR with HELD.OVR = 1. -/
  | mf1
  /-- ENG_PARTITION: EWR or ERD with HALF = BUFIDX. -/
  | mf2
  /-- ENG_DISARMED: EWR or ERD with ENG_EN = 0. -/
  | mf3
  deriving DecidableEq, Repr

/-- FAULTS, a subset of {MF1, MF2, MF3} (10_state.md R36), one bit per member. -/
structure Faults where
  mf1 : Bool
  mf2 : Bool
  mf3 : Bool
  deriving DecidableEq, Repr

/-- STS (30_encoding.md R84); the codes 4 to 15 are never produced, so they are not here. -/
inductive Status where
  /-- 0 -/
  | ok
  /-- 1 -/
  | timeout
  /-- 2 -/
  | invalidState
  /-- 3 -/
  | illegal
  deriving DecidableEq, Repr

/-- An output event (10_state.md R34). -/
inductive Event where
  | engCfg
  | xportClrFlags
  | xportCfg (rate : BitVec 20) (size : BitVec 6)
  deriving DecidableEq, Repr

/-- A command record of HIST (10_state.md R37): the command, its response, and whether DATA is a draw. -/
structure CommandRecord where
  port  : Port
  cw    : Word
  dw    : Option Word
  sts   : Status
  data  : Word
  drawn : Bool
  deriving DecidableEq, Repr

/-- An entry of HIST (10_state.md R37). -/
inductive HistEntry where
  | command (r : CommandRecord)
  | output (e : Event)
  deriving DecidableEq, Repr

/-- One port: its position, the number of its completed commands (10_state.md R21), and the words of its agent's stream
that belong to commands not yet completed, the next command first (log 3). -/
structure PortState where
  pos    : Nat
  stream : List Word
  deriving DecidableEq, Repr

/-- The reference engine (40_engine.md R108): the half p it transfers, the offset it is at (P_NS when only the EVT is left),
and which of the four accesses of this offset it has made. -/
structure RingAgent where
  half       : Bool
  off        : Nat
  wroteLeft  : Bool
  wroteRight : Bool
  readLeft   : Bool
  readRight  : Bool
  deriving DecidableEq, Repr

/-- Where the reference consumer is in its loop (42_processor.md R138). -/
inductive LoopPhase where
  /-- before TAKE -/
  | take
  /-- reading the input block -/
  | read
  /-- writing the output block -/
  | write
  /-- before DONE -/
  | release
  deriving DecidableEq, Repr

/-- The reference consumer: its phase and the words of the block it has read, or written, in this phase. -/
structure LoopAgent where
  phase : LoopPhase
  seen  : List (Channel × BitVec 16)
  deriving DecidableEq, Repr

/-- What the reference engine may do next (40_engine.md R108). -/
inductive EngineMove where
  /-- EWR of a peripheral sample to this channel -/
  | write (ch : Channel)
  /-- ERD of this channel -/
  | read (ch : Channel)
  /-- the completion event of the half -/
  | event
  deriving DecidableEq, Repr

/-- What the reference consumer may do next (42_processor.md R138).
The value of a CWR is the consumer's own transformation of what it read, which the PPBA does not see: it comes with the move. -/
inductive ConsumerMove where
  | take
  | read (ch : Channel) (off : BitVec 16)
  | write (ch : Channel) (off : BitVec 16) (value : Word)
  | release
  deriving DecidableEq, Repr

/-- Which agent takes the next step of the total order, and which of its steps (20_memory.md R60; log 4). -/
inductive Turn where
  /-- the port's agent: its next command (30_encoding.md R85) -/
  | command (p : Port)
  /-- port C: the delivery step of an outstanding TAKE (41_ready_signal.md R123) -/
  | deliver
  /-- port C: the timeout step of an outstanding TAKE (41_ready_signal.md R124) -/
  | takeTimeout
  /-- port H: the finish step of an outstanding WDRAIN (43_controller.md R156) -/
  | finish
  /-- port H: the timeout step of an outstanding WDRAIN (43_controller.md R156) -/
  | drainTimeout
  /-- the reference engine (40_engine.md R108) -/
  | engine (m : EngineMove)
  /-- the reference consumer (42_processor.md R138) -/
  | consumer (m : ConsumerMove)
  deriving DecidableEq, Repr

/-- One word of BUF: its flat word address (20_memory.md R51) and its value, zero-extended to 32 bits. -/
abbrev BufCell := Nat × Word

/-- BUF: the words whose defined mark is set, addresses strictly rising; an address not listed is UNDEF (20_memory.md R50; log 7). -/
abbrev Memory := List BufCell

/-- The state of the machine. -/
structure State where
  /-- the open parameters; no step writes them (log 1) -/
  cfg       : Config
  /-- STATE -/
  state     : StreamState
  /-- BUFIDX -/
  bufIdx    : Bool
  /-- SLOT -/
  slot      : Slot
  /-- HELD -/
  held      : Held
  /-- ENG_EN -/
  engEn     : Bool
  /-- STOP_ARM -/
  stopArm   : Bool
  /-- DRAIN_DONE -/
  drainDone : Bool
  /-- INITD -/
  initd     : Bool
  /-- RATE -/
  rate      : BitVec 20
  /-- SIZE -/
  size      : BitVec 6
  /-- XPORT_EN -/
  xportEn   : Bool
  /-- BUF -/
  buf       : Memory
  /-- PEND_H: the TMO of an outstanding WDRAIN (log 14) -/
  pendH     : Option (BitVec 24)
  /-- PEND_C: the TMO of an outstanding TAKE (log 14) -/
  pendC     : Option (BitVec 24)
  /-- FAULTS -/
  faults    : Faults
  /-- HIST, oldest first -/
  hist      : List HistEntry
  /-- port H -/
  portH     : PortState
  /-- port C -/
  portC     : PortState
  /-- port E -/
  portE     : PortState
  /-- draws used so far: the model's own counter (log 6) -/
  draws     : Nat
  /-- the turns to come, next first (log 4) -/
  sched     : List Turn
  /-- the reference engine (log 10) -/
  eng       : RingAgent
  /-- the reference consumer (log 11) -/
  cons      : LoopAgent
  deriving DecidableEq, Repr

/-- No step of the PPBA stops the machine: it has no traps (60_exceptions.md R180), an error is a status code, and a model
fault is recorded in FAULTS while the step answers a next state (10_state.md R36, 60_exceptions.md R187).
So there is no reason to stop with, and nothing raises one (log 17; safe: nothing is cut off). -/
inductive Fault where
  deriving DecidableEq, Repr

/-- Why a step has no meaning. -/
inductive Refusal where
  /-- An instruction without a meaning yet, by its mnemonic: raised by an arm of `exec` only, and by none now (safe). -/
  | notModelled (mnemonic : String)
  deriving DecidableEq, Repr

/-- What a step or a meaning answers. -/
abbrev Result := Host.Outcome State Fault Refusal

/-- An empty SLOT. -/
def Slot.empty : Slot := { full := false, idx := false, final := false }

/-- HELD with every bit 0. -/
def Held.clear : Held := { valid := false, idx := false, final := false, ovr := false }

/-- The empty set of model faults. -/
def Faults.none : Faults := { mf1 := false, mf2 := false, mf3 := false }

/-- A port whose agent has issued nothing. -/
def PortState.initial : PortState := { pos := 0, stream := [] }

/-- The reference engine at the start of half 0 (40_engine.md R108; its place before ENG_CFG is log 10). -/
def RingAgent.start : RingAgent :=
  { half := false, off := 0, wroteLeft := false, wroteRight := false, readLeft := false, readRight := false }

/-- The reference consumer at the start of its loop (log 11). -/
def LoopAgent.start : LoopAgent := { phase := .take, seen := [] }

/-- The state after reset of a machine with parameters `c` (70_reset_and_hazards.md R210). -/
def State.resetOf (c : Config) : State :=
  { cfg := c
    state := .idle
    bufIdx := true
    slot := Slot.empty
    held := Held.clear
    engEn := false
    stopArm := false
    drainDone := false
    initd := false
    rate := c.resetRate
    size := c.resetSize
    xportEn := false
    buf := []
    pendH := Option.none
    pendC := Option.none
    faults := Faults.none
    hist := []
    portH := PortState.initial
    portC := PortState.initial
    portE := PortState.initial
    draws := 0
    sched := []
    eng := RingAgent.start
    cons := LoopAgent.start }

/-- The state after reset, for the parameters the log names (log 1, log 2). -/
def State.reset : State := State.resetOf Config.chosen

end Sys2Proof.Machine
end

