-- ==== Sys2Proof/Machine/Operands.lean ====
section
/-! DEFINITION. The operand forms: OFF and its range, TMO and its three ranges, the sample a data word stands for, and the
BUF address an access reaches (30_encoding.md R77, R82; 20_memory.md R51, R53, R55). -/

namespace Sys2Proof.Machine

/-- OFF < P_NS (30_encoding.md R82). -/
def offInRange (c : Config) (off : BitVec 16) : Bool := decide (off.toNat < c.ns)

/-- TMO = 0: a poll (30_encoding.md R77). -/
def isPoll (tmo : BitVec 24) : Bool := tmo == 0#24

/-- TMO = 0xFFFFFF: never times out (30_encoding.md R77). -/
def isIndefinite (tmo : BitVec 24) : Bool := tmo == 0xFFFFFF#24

/-- 0 < TMO < 0xFFFFFF: may time out (30_encoding.md R77). -/
def isFinite (tmo : BitVec 24) : Bool := !isPoll tmo && !isIndefinite tmo

/-- DW[SW-1:0], zero-extended to 32 bits (20_memory.md R55). -/
def sampleOf (c : Config) (dw : Word) : Word := (dw.setWidth c.sw).setWidth 32

/-- The flat word address ((DIR * 2 + CH) * 2 + HALF) * P_NS + OFF (20_memory.md R51). -/
def flatAddress (c : Config) (dir : Dir) (ch : Channel) (half : Bool) (off : BitVec 16) : Nat :=
  ((dir.bit.toNat * 2 + ch.bit.toNat) * 2 + half.toNat) * c.ns + off.toNat

/-- The engine's half, 1 - BUFIDX (00_scope.md R17). -/
def engineHalf (s : State) : Bool := !s.bufIdx

end Sys2Proof.Machine
end

