-- ==== Sys2Proof/Machine/Ops.lean ====
section
/-! DEFINITION. The shared operations the meanings are written over: BUF reads and writes, ports, responses, pends, output
events, model faults and draws (00_scope.md R12; 20_memory.md R55; 30_encoding.md R84, R85).
The PPBA takes no exceptions: recording a model fault is `raiseFault` (60_exceptions.md R186, R187). -/

namespace Sys2Proof.Machine

/-- The canonical form of BUF: addresses strictly rising, so no word is listed twice. -/
abbrev Memory.wf (m : Memory) : Prop := m.Pairwise (fun x y => x.1 < y.1)

/-- The word at a flat address, `none` when its defined mark is clear (20_memory.md R50). -/
def Memory.get : Memory → Nat → Option Word
  | [], _ => none
  | (b, w) :: m, a => if b = a then some w else Memory.get m a

/-- Write the word at a flat address and set its defined mark. -/
def Memory.set : Memory → Nat → Word → Memory
  | [], a, v => [(a, v)]
  | (b, w) :: m, a, v =>
    if a < b then (a, v) :: (b, w) :: m
    else if a = b then (a, v) :: m
    else (b, w) :: Memory.set m a v

/-- The word of BUF at (DIR, CH, HALF, OFF), `none` for UNDEF (`BufRead` of 00_scope.md R12). -/
def State.bufWord (s : State) (dir : Dir) (ch : Channel) (half : Bool) (off : BitVec 16) : Option Word :=
  s.buf.get (flatAddress s.cfg dir ch half off)

/-- `BufWrite(dir, ch, half, off, dw)` (20_memory.md R55). -/
def bufWrite (dir : Dir) (ch : Channel) (half : Bool) (off : BitVec 16) (dw : Word) (s : State) : State :=
  { s with buf := s.buf.set (flatAddress s.cfg dir ch half off) (sampleOf s.cfg dw) }

/-- A port's position and stream. -/
def State.port (s : State) : Port → PortState
  | .host => s.portH
  | .consumer => s.portC
  | .engine => s.portE

/-- Replace a port's position and stream. -/
def State.setPort (s : State) (p : Port) (q : PortState) : State :=
  match p with
  | .host => { s with portH := q }
  | .consumer => { s with portC := q }
  | .engine => { s with portE := q }

/-- PEND of a port; port E never has an outstanding command (10_state.md R35). -/
def State.pending (s : State) : Port → Option (BitVec 24)
  | .host => s.pendH
  | .consumer => s.pendC
  | .engine => none

/-- The schedule still to come (log 4). -/
def State.setSched (s : State) (ts : List Turn) : State := { s with sched := ts }

/-- The reference engine's own state (log 10). -/
def State.setEng (s : State) (a : RingAgent) : State := { s with eng := a }

/-- The reference consumer's own state (log 11). -/
def State.setCons (s : State) (a : LoopAgent) : State := { s with cons := a }

/-- Complete the current command of port `p` with a response: HIST gains its record (10_state.md R37), the port's position
advances by one (30_encoding.md R85) and its words leave the stream. -/
def complete (p : Port) (cw : Word) (dw : Option Word) (sts : Status) (data : Word) (drawn : Bool) (s : State) : State :=
  let s1 : State := { s with hist := s.hist ++ [HistEntry.command ⟨p, cw, dw, sts, data, drawn⟩] }
  s1.setPort p
    { pos := (s.port p).pos + 1, stream := (s.port p).stream.drop (1 + dw.toList.length) }

/-- `respond(STS, DATA)` of command `i`, DATA no draw (00_scope.md R12). -/
def respond (i : Instr) (sts : Status) (data : Word) (s : State) : State :=
  complete i.port i.cw i.dw sts data false s

/-- `emit(E)` (00_scope.md R12). The reference engine obeys ENG_CFG at once: it goes to the start of half 0 (40_engine.md R108). -/
def emit (e : Event) (s : State) : State :=
  match e with
  | .engCfg => { s with hist := s.hist ++ [.output .engCfg], eng := RingAgent.start }
  | .xportClrFlags => { s with hist := s.hist ++ [.output .xportClrFlags] }
  | .xportCfg rate size => { s with hist := s.hist ++ [.output (.xportCfg rate size)] }

/-- FAULTS with one more member. -/
def Faults.insert (fs : Faults) : ModelFault → Faults
  | .mf1 => { fs with mf1 := true }
  | .mf2 => { fs with mf2 := true }
  | .mf3 => { fs with mf3 := true }

/-- `raise Fault(MFn)`: record the fault; the step has no further effect (60_exceptions.md R187; log 5). -/
def raiseFault (f : ModelFault) (s : State) : State := { s with faults := s.faults.insert f }

/-- The next `draw(SW)` of the run, zero-extended (00_scope.md R12; log 6). -/
def drawnSample (s : State) : Word := sampleOf s.cfg (Config.freeWord s.draws)

/-- Use up one draw. -/
def spendDraw (s : State) : State := { s with draws := s.draws + 1 }

/-- Respond to `i` with the word at (DIR, CH, HALF, OFF), zero-extended: a draw, logged as one, when it is UNDEF (20_memory.md R54, R55). -/
def respondRead (i : Instr) (dir : Dir) (ch : Channel) (half : Bool) (off : BitVec 16) (s : State) : State :=
  match s.bufWord dir ch half off with
  | some w => respond i .ok w s
  | none => complete i.port i.cw i.dw .ok (drawnSample s) true (spendDraw s)

end Sys2Proof.Machine
end

