-- ==== Sys2Proof/Machine/Controller.lean ====
section
/-! DEFINITION. The controller family: START, STOP, WDRAIN with its finish and timeout steps, RECONF (43_controller.md). -/

namespace Sys2Proof.Machine

/-- START (43_controller.md R151). -/
def execStart (s : State) : Result :=
  if s.state != .idle || !s.initd then .next (respond .start .invalidState 0#32 s)
  else
    .next (respond .start .ok 0#32
      { emit .xportClrFlags { s with stopArm := false, drainDone := false } with
        engEn := true, xportEn := true, state := .streaming })

/-- STOP (43_controller.md R153). -/
def execStop (s : State) : Result :=
  if s.state != .streaming then .next (respond .stop .invalidState 0#32 s)
  else .next (respond .stop .ok 0#32 { s with state := .stopRequested, stopArm := true })

/-- `finish()` for a WDRAIN with this TMO (43_controller.md R155). -/
def finishDrain (tmo : BitVec 24) (s : State) : State :=
  respond (.wdrain tmo) .ok 0#32 { s with drainDone := false, state := .idle, pendH := none }

/-- WDRAIN, the issuing step (43_controller.md R155). -/
def execWdrain (tmo : BitVec 24) (s : State) : Result :=
  if s.state == .idle || s.state == .streaming then .next (respond (.wdrain tmo) .invalidState 0#32 s)
  else if s.drainDone then .next (finishDrain tmo s)
  else if isPoll tmo then .next (respond (.wdrain tmo) .timeout 0#32 s)
  else .next { s with pendH := some tmo }

/-- The finish step (43_controller.md R156 (1)); without an outstanding WDRAIN or with DRAIN_DONE = 0 it is not enabled (log 4). -/
def finishStep (s : State) : State :=
  match s.pendH with
  | none => s
  | some tmo => if s.drainDone then finishDrain tmo s else s

/-- The timeout step (43_controller.md R156 (2)); not enabled while DRAIN_DONE = 1, nor for TMO = 0xFFFFFF (log 4). -/
def drainTimeoutStep (s : State) : State :=
  match s.pendH with
  | none => s
  | some tmo =>
    if isFinite tmo && !s.drainDone then respond (.wdrain tmo) .timeout 0#32 { s with pendH := none } else s

/-- RECONF (43_controller.md R157). -/
def execReconf (rate : BitVec 20) (size : BitVec 6) (s : State) : Result :=
  if s.state != .idle then .next (respond (.reconf rate size) .invalidState 0#32 s)
  else
    .next (respond (.reconf rate size) .ok 0#32 (emit (.xportCfg rate size) { s with rate := rate, size := size }))

end Sys2Proof.Machine
end

