-- ==== Sys2Proof/Machine/Flags.lean ====
section
/-! DEFINITION. The status images and the response data computed from state bits (10_state.md R23, R38, R39; 41_ready_signal.md R122). -/

namespace Sys2Proof.Machine

/-- The 2-bit encoding of STATE (10_state.md R23). -/
def StreamState.code : StreamState → BitVec 2
  | .idle => 0#2
  | .streaming => 1#2
  | .stopRequested => 2#2
  | .draining => 3#2

/-- The 4-bit code of STS (30_encoding.md R84). -/
def Status.code : Status → BitVec 4
  | .ok => 0#4
  | .timeout => 1#4
  | .invalidState => 2#4
  | .illegal => 3#4

/-- STATUS_IMAGE(S): the fields of 10_state.md R38 from bit 31 down. -/
def statusImage (s : State) : Word :=
  0#18
    ++ BitVec.ofBool s.xportEn
    ++ BitVec.ofBool s.initd
    ++ BitVec.ofBool s.drainDone
    ++ BitVec.ofBool s.stopArm
    ++ BitVec.ofBool s.engEn
    ++ BitVec.ofBool s.held.final
    ++ BitVec.ofBool s.held.idx
    ++ BitVec.ofBool s.held.valid
    ++ BitVec.ofBool s.slot.final
    ++ BitVec.ofBool s.slot.idx
    ++ BitVec.ofBool s.slot.full
    ++ BitVec.ofBool s.bufIdx
    ++ s.state.code

/-- PARAMS_IMAGE(S) = zext_32(SIZE ++ RATE) (10_state.md R39). -/
def paramsImage (s : State) : Word := (s.size ++ s.rate).setWidth 32

/-- DATA of a delivery: zext_32(FINAL ++ IDX) (41_ready_signal.md R122). -/
def takeData (final idx : Bool) : Word := (BitVec.ofBool final ++ BitVec.ofBool idx).setWidth 32

/-- DATA of an EVT: 1 when it was applied, 0 when it was ignored (40_engine.md R103). -/
def evtData (applied : Bool) : Word := if applied then 1#32 else 0#32

end Sys2Proof.Machine
end

