-- ==== Sys2Proof/Machine/Diagnostics.lean ====
section
/-! DEFINITION. The diagnostics family: STAT, BUFRD (44_diagnostics.md). -/

namespace Sys2Proof.Machine

/-- STAT (44_diagnostics.md R170). -/
def execStat (sel : Bool) (s : State) : Result :=
  .next (respond (.stat sel) .ok (if sel then paramsImage s else statusImage s) s)

/-- BUFRD (44_diagnostics.md R171). -/
def execBufrd (dir : Dir) (ch : Channel) (half : Bool) (off : BitVec 16) (s : State) : Result :=
  if !offInRange s.cfg off then .next (respond (.bufrd dir ch half off) .illegal 0#32 s)
  else if s.state != .idle then .next (respond (.bufrd dir ch half off) .invalidState 0#32 s)
  else .next (respondRead (.bufrd dir ch half off) dir ch half off s)

end Sys2Proof.Machine
end

