-- ==== Sys2Proof/Machine/Engine.lean ====
section
/-! DEFINITION. The engine family: INIT, EVT, EWR, ERD (40_engine.md). -/

namespace Sys2Proof.Machine

/-- INIT (40_engine.md R102). -/
def execInit (s : State) : Result :=
  if s.initd then .next (respond .init .invalidState 0#32 s)
  else
    .next (respond .init .ok 0#32
      (emit .engCfg { s with bufIdx := true, slot := Slot.empty, drainDone := false, initd := true }))

/-- The ready-channel post of an applied EVT, overwriting (41_ready_signal.md R120). -/
def post (tc final : Bool) (s : State) : State := { s with slot := { full := true, idx := tc, final := final } }

/-- The effect of an applied EVT (40_engine.md R103): BUFIDX copied from TC, the ghost of an overrun, the post, and the halt
when the stop was armed (R104). -/
def applyEvent (tc : Bool) (s : State) : State :=
  let s1 := { s with bufIdx := tc, held := { s.held with ovr := s.held.ovr || s.held.valid } }
  let s2 := post tc s.stopArm s1
  if s.stopArm then { s2 with engEn := false, state := .draining } else s2

/-- EVT (40_engine.md R103); ignored while ENG_EN = 0 (R107). -/
def execEvt (tc : Bool) (s : State) : Result :=
  if s.engEn then .next (respond (.evt tc) .ok (evtData true) (applyEvent tc s))
  else .next (respond (.evt tc) .ok (evtData false) s)

/-- EWR (40_engine.md R105). -/
def execEwr (ch : Channel) (half : Bool) (off : BitVec 16) (dw : Word) (s : State) : Result :=
  if !offInRange s.cfg off then .next (respond (.ewr ch half off dw) .illegal 0#32 s)
  else if !s.engEn then .next (raiseFault .mf3 s)
  else if half == s.bufIdx then .next (raiseFault .mf2 s)
  else .next (respond (.ewr ch half off dw) .ok 0#32 (bufWrite .input ch half off dw s))

/-- ERD (40_engine.md R106). -/
def execErd (ch : Channel) (half : Bool) (off : BitVec 16) (s : State) : Result :=
  if !offInRange s.cfg off then .next (respond (.erd ch half off) .illegal 0#32 s)
  else if !s.engEn then .next (raiseFault .mf3 s)
  else if half == s.bufIdx then .next (raiseFault .mf2 s)
  else .next (respondRead (.erd ch half off) .output ch half off s)

end Sys2Proof.Machine
end

