-- ==== Sys2Proof/Machine/Processor.lean ====
section
/-! DEFINITION. The processor family: DONE, CRD, CWR (42_processor.md). -/

namespace Sys2Proof.Machine

/-- DONE (42_processor.md R135). -/
def execDone (s : State) : Result :=
  if !s.held.valid then .next (respond .done .invalidState 0#32 s)
  else
    .next (respond .done .ok 0#32
      { s with
        drainDone := s.drainDone || (s.held.final && s.state == .draining)
        held := { s.held with valid := false } })

/-- CRD (42_processor.md R136): the half is HELD.IDX, never an operand (20_memory.md R53). -/
def execCrd (ch : Channel) (off : BitVec 16) (s : State) : Result :=
  if !offInRange s.cfg off then .next (respond (.crd ch off) .illegal 0#32 s)
  else if !s.held.valid then .next (respond (.crd ch off) .invalidState 0#32 s)
  else if s.held.ovr then .next (raiseFault .mf1 s)
  else .next (respondRead (.crd ch off) .input ch s.held.idx off s)

/-- CWR (42_processor.md R137): the half is HELD.IDX, never an operand (20_memory.md R53). -/
def execCwr (ch : Channel) (off : BitVec 16) (dw : Word) (s : State) : Result :=
  if !offInRange s.cfg off then .next (respond (.cwr ch off dw) .illegal 0#32 s)
  else if !s.held.valid then .next (respond (.cwr ch off dw) .invalidState 0#32 s)
  else if s.held.ovr then .next (raiseFault .mf1 s)
  else .next (respond (.cwr ch off dw) .ok 0#32 (bufWrite .output ch s.held.idx off dw s))

end Sys2Proof.Machine
end

