-- ==== Sys2Proof/Machine/ReadySignal.lean ====
section
/-! DEFINITION. The ready-signal family: TAKE with its delivery and timeout steps (41_ready_signal.md). The post is part of EVT. -/

namespace Sys2Proof.Machine

/-- `deliver()` for a TAKE with this TMO (41_ready_signal.md R122). -/
def deliverBlock (tmo : BitVec 24) (s : State) : State :=
  respond (.take tmo) .ok (takeData s.slot.final s.slot.idx)
    { s with
      held := { valid := true, idx := s.slot.idx, final := s.slot.final, ovr := false }
      slot := { s.slot with full := false }
      pendC := none }

/-- TAKE, the issuing step (41_ready_signal.md R122). -/
def execTake (tmo : BitVec 24) (s : State) : Result :=
  if s.held.valid then .next (respond (.take tmo) .invalidState 0#32 s)
  else if s.slot.full then .next (deliverBlock tmo s)
  else if isPoll tmo then .next (respond (.take tmo) .timeout 0#32 s)
  else .next { s with pendC := some tmo }

/-- The delivery step (41_ready_signal.md R123); without an outstanding TAKE or a full SLOT it is not enabled (log 4). -/
def deliveryStep (s : State) : State :=
  match s.pendC with
  | none => s
  | some tmo => if s.slot.full then deliverBlock tmo s else s

/-- The timeout step (41_ready_signal.md R124); not enabled while SLOT.FULL = 1, nor for TMO = 0xFFFFFF (log 4). -/
def takeTimeoutStep (s : State) : State :=
  match s.pendC with
  | none => s
  | some tmo =>
    if isFinite tmo && !s.slot.full then respond (.take tmo) .timeout 0#32 { s with pendC := none } else s

end Sys2Proof.Machine
end

