-- ==== Sys2Proof/Machine/Dispatch.lean ====
section
/-! DEFINITION. One arm per command: its rule, run in one atomic step (30_encoding.md R85). -/

namespace Sys2Proof.Machine

/-- Run the rule of a decoded command. -/
def exec (i : Instr) (s : State) : Host.Outcome State Fault Refusal :=
  match i with
  | .init => Sys2Proof.Machine.execInit s
  | .start => Sys2Proof.Machine.execStart s
  | .stop => Sys2Proof.Machine.execStop s
  | .wdrain tmo => Sys2Proof.Machine.execWdrain tmo s
  | .reconf rate size => Sys2Proof.Machine.execReconf rate size s
  | .stat sel => Sys2Proof.Machine.execStat sel s
  | .bufrd dir ch half off => Sys2Proof.Machine.execBufrd dir ch half off s
  | .take tmo => Sys2Proof.Machine.execTake tmo s
  | .done => Sys2Proof.Machine.execDone s
  | .crd ch off => Sys2Proof.Machine.execCrd ch off s
  | .cwr ch off dw => Sys2Proof.Machine.execCwr ch off dw s
  | .evt tc => Sys2Proof.Machine.execEvt tc s
  | .ewr ch half off dw => Sys2Proof.Machine.execEwr ch half off dw s
  | .erd ch half off => Sys2Proof.Machine.execErd ch half off s

end Sys2Proof.Machine
end

