-- ==== Sys2Proof/Machine/Ports.lean ====
section
/-! DEFINITION. How a port takes its agent's next command: its words from the stream, the decoder, then the command's rule or
the ILLEGAL response (30_encoding.md R71, R83, R85, R86). -/

namespace Sys2Proof.Machine

/-- The words of the next command of a stream: CW, and DW when the OP says two words.
`none` while a whole command has not arrived (log 9). -/
def nextCommand : List Word → Option (Word × Option Word)
  | [] => none
  | cw :: rest =>
    if twoWords cw then
      match rest with
      | [] => none
      | dw :: _ => some (cw, some dw)
    else some (cw, none)

/-- Decode and run one command on port `p`; a command that does not decode completes with ILLEGAL (30_encoding.md R83). -/
def runCommand (p : Port) (cw : Word) (dw : Option Word) (s : State) : Result :=
  match decode s.cfg p cw (dw.getD 0#32) with
  | .ok i => exec i s
  | .error _ => .next (complete p cw dw .illegal 0#32 false s)

/-- Port `p`'s agent takes its next command: only when PEND is none (30_encoding.md R85), and only when one has arrived;
otherwise nothing is taken (log 4). -/
def takeCommand (p : Port) (s : State) : Result :=
  match s.pending p with
  | some _ => .next s
  | none =>
    match nextCommand (s.port p).stream with
    | none => .next s
    | some (cw, dw) => runCommand p cw dw s

/-- An agent issues command `i` on its port, behind what the stream holds. -/
def issue (i : Instr) (s : State) : State :=
  s.setPort i.port { s.port i.port with stream := (s.port i.port).stream ++ encode i }

/-- Place a command first in port `p`'s stream, let the port take commands, and give its agent the next turn. -/
def placeCommand (p : Port) (words : List Word) (s : State) : State :=
  let s1 :=
    match p with
    | .host => { s with pendH := none }
    | .consumer => { s with pendC := none }
    | .engine => s
  let s2 := s1.setPort p { s1.port p with stream := words ++ (s1.port p).stream }
  { s2 with sched := .command p :: s2.sched }

/-- The words of the command a command word starts: two when its OP says so. -/
def wordsOf (cw dw : Word) : List Word := if twoWords cw then [cw, dw] else [cw]

/-- The port that accepts the command of a command word; port H for a reserved OP, which is ILLEGAL on every port (log 19). -/
def acceptingPort (cw : Word) : Port :=
  match Opcode.ofBits (opField cw) with
  | some op => op.port
  | none => .host

end Sys2Proof.Machine
end

