-- ==== Sys2Proof/Machine/Agents.lean ====
section
/-! DEFINITION. The reference engine (40_engine.md R108) and the reference consumer (42_processor.md R138) as agents of the
machine: a move is enabled only where their loops allow it, issues its command and runs it in the same step (log 10, log 11). -/

namespace Sys2Proof.Machine

/-- The engine's access of this kind and channel is already made at this offset. -/
def RingAgent.made (a : RingAgent) (write : Bool) (ch : Channel) : Bool :=
  match write, ch with
  | true, .left => a.wroteLeft
  | true, .right => a.wroteRight
  | false, .left => a.readLeft
  | false, .right => a.readRight

/-- Mark an access as made. -/
def RingAgent.mark (a : RingAgent) (write : Bool) (ch : Channel) : RingAgent :=
  match write, ch with
  | true, .left => { a with wroteLeft := true }
  | true, .right => { a with wroteRight := true }
  | false, .left => { a with readLeft := true }
  | false, .right => { a with readRight := true }

/-- Go to the next offset when all four accesses of this one are made. -/
def RingAgent.settle (a : RingAgent) : RingAgent :=
  if a.wroteLeft && a.wroteRight && a.readLeft && a.readRight then
    { half := a.half, off := a.off + 1, wroteLeft := false, wroteRight := false, readLeft := false, readRight := false }
  else a

/-- After the EVT of a half: p <- 1 - p, and the period starts again. -/
def RingAgent.flip (a : RingAgent) : RingAgent :=
  { half := !a.half, off := 0, wroteLeft := false, wroteRight := false, readLeft := false, readRight := false }

/-- One move of the reference engine (40_engine.md R108): only while ENG_EN = 1 and its last command has completed.
Its progress is marked as the access is issued, whatever comes of it (DESIGN CHOICE, log 10). -/
def engineMove (m : EngineMove) (s : State) : Result :=
  if !s.engEn || !s.portE.stream.isEmpty then .next s
  else
    match m with
    | .write ch =>
      if decide (s.eng.off < s.cfg.ns) && !s.eng.made true ch then
        takeCommand .engine
          (issue (.ewr ch s.eng.half (BitVec.ofNat 16 s.eng.off) (drawnSample s))
            (spendDraw (s.setEng (s.eng.mark true ch).settle)))
      else .next s
    | .read ch =>
      if decide (s.eng.off < s.cfg.ns) && !s.eng.made false ch then
        takeCommand .engine
          (issue (.erd ch s.eng.half (BitVec.ofNat 16 s.eng.off)) (s.setEng (s.eng.mark false ch).settle))
      else .next s
    | .event =>
      if s.eng.off == s.cfg.ns then
        takeCommand .engine (issue (.evt s.eng.half) (s.setEng s.eng.flip))
      else .next s

/-- Mark a word of the block as read or written; `next` is the phase that follows when all 2 * P_NS words are. -/
def LoopAgent.see (a : LoopAgent) (c : Config) (ch : Channel) (off : BitVec 16) (next : LoopPhase) : LoopAgent :=
  if a.seen.length + 1 == 2 * c.ns then { phase := next, seen := [] }
  else { a with seen := (ch, off) :: a.seen }

/-- A word of the input block not yet read: the reads come in any order (42_processor.md R138). -/
def LoopAgent.wantsRead (a : LoopAgent) (c : Config) (ch : Channel) (off : BitVec 16) : Bool :=
  offInRange c off && !a.seen.contains (ch, off)

/-- The word the write loop comes to next (42_processor.md R138): the offsets of a channel ascending from 0, then those of the other
channel. Which channel comes first the rule leaves open, and the move says (log 11). -/
def LoopAgent.wantsWrite (a : LoopAgent) (c : Config) (ch : Channel) (off : BitVec 16) : Bool :=
  match a.seen with
  | [] => off == 0#16
  | (lastCh, lastOff) :: _ =>
    if lastOff.toNat + 1 < c.ns then ch == lastCh && off.toNat == lastOff.toNat + 1
    else ch != lastCh && off == 0#16

/-- One move of the reference consumer (42_processor.md R138): only when its last command has completed.
Its place in the loop goes on as the command is issued: also where the CRD or CWR then raises MF1, whose words stay first in port C's
stream (DESIGN CHOICE, log 11; 60_exceptions.md R187 says nothing of the agent). -/
def consumerMove (m : ConsumerMove) (s : State) : Result :=
  if !s.portC.stream.isEmpty || s.pendC.isSome then .next s
  else
    match m with
    | .take =>
      if s.cons.phase == .take then
        takeCommand .consumer (issue (.take 0xFFFFFF#24) (s.setCons { phase := .read, seen := [] }))
      else .next s
    | .read ch off =>
      if s.cons.phase == .read && s.cons.wantsRead s.cfg ch off then
        takeCommand .consumer (issue (.crd ch off) (s.setCons (s.cons.see s.cfg ch off .write)))
      else .next s
    | .write ch off value =>
      if s.cons.phase == .write && s.cons.wantsWrite s.cfg ch off then
        takeCommand .consumer (issue (.cwr ch off value) (s.setCons (s.cons.see s.cfg ch off .release)))
      else .next s
    | .release =>
      if s.cons.phase == .release then
        takeCommand .consumer (issue .done (s.setCons LoopAgent.start))
      else .next s

end Sys2Proof.Machine
end

