-- ==== Sys2Proof/Machine/Step.lean ====
section
/-! DEFINITION. One step of the total order (20_memory.md R60): the agent whose turn it is takes one of its steps. -/

namespace Sys2Proof.Machine

/-- The step a turn stands for; a turn that is not enabled changes nothing (log 4). -/
def runTurn (t : Turn) (s : State) : Result :=
  match t with
  | .command p => takeCommand p s
  | .deliver => .next (deliveryStep s)
  | .takeTimeout => .next (takeTimeoutStep s)
  | .finish => .next (finishStep s)
  | .drainTimeout => .next (drainTimeoutStep s)
  | .engine m => engineMove m s
  | .consumer m => consumerMove m s

/-- One step: the next turn of the schedule; with no turn to come, no agent moves and nothing changes (log 4). -/
def step (s : State) : Host.Outcome State Fault Refusal :=
  match s.sched with
  | [] => .next s
  | t :: ts => runTurn t (s.setSched ts)

/-- The command of an opcode-table word, first in the stream of the port that accepts it, with that port's agent to move next (log 3, log 19). -/
def State.withFetchWord (s : State) (nbits w : Nat) : State :=
  placeCommand (acceptingPort (tableWords nbits w).1) (wordsOf (tableWords nbits w).1 (tableWords nbits w).2) s

end Sys2Proof.Machine
end

