-- ==== Sys2Proof/Safety.lean ====
section
/-! DEFINITION. The terms claims about the machine are stated in: the ownership partition, the refusal and fault tables, enabled
turns, the invariants of 10_state.md R40, reachable states and the ends of a run. No step reads anything here. -/

namespace Sys2Proof.Machine

/-- No model fault has been recorded: the premise of a claim about the hardware (60_exceptions.md R187). -/
def State.FaultFree (s : State) : Prop := s.faults = Faults.none

/-! ## Encodings as the rules write them -/

/-- Every word with this OP and a reserved bit set (a bit of `mask` that differs from `pattern`) is refused by the decoder of port `p`. -/
def ReservedBitIllegal (p : Port) (pattern mask : Word) : Prop :=
  ∀ (c : Config) (cw dw : Word),
    cw &&& 0xF0000000#32 = pattern → cw &&& mask ≠ pattern → decode c p cw dw = .error .reservedBit

/-- A port accepts an opcode value (30_encoding.md R73). -/
def accepts (p : Port) (op : Nat) : Bool :=
  match p with
  | .host => decide (0x1 ≤ op) && decide (op ≤ 0x7)
  | .consumer => decide (0x8 ≤ op) && decide (op ≤ 0xB)
  | .engine => decide (0xC ≤ op) && decide (op ≤ 0xE)

/-- A reserved bit of the word's format is 1, read off the tables of 30_encoding.md R74 to R81. -/
def reservedBitSet (cw : Word) : Bool :=
  match (cw.extractLsb' 28 4).toNat with
  | 0x4 => cw.extractLsb' 24 4 != 0#4
  | 0x5 => cw.extractLsb' 26 2 != 0#2
  | 0x6 => cw.extractLsb' 1 27 != 0#27
  | 0x7 => cw.extractLsb' 16 9 != 0#9
  | 0x8 => cw.extractLsb' 24 4 != 0#4
  | 0xA => cw.getLsbD 27 || cw.extractLsb' 16 10 != 0#10
  | 0xB => cw.getLsbD 27 || cw.extractLsb' 16 10 != 0#10
  | 0xC => cw.extractLsb' 1 27 != 0#27
  | 0xD => cw.getLsbD 27 || cw.extractLsb' 16 9 != 0#9
  | 0xE => cw.getLsbD 27 || cw.extractLsb' 16 9 != 0#9
  | _ => cw.extractLsb' 0 28 != 0#28

/-- `has_off(op)` (30_encoding.md R86). -/
def hasOffset (op : Nat) : Bool := op == 0x7 || op == 0xA || op == 0xB || op == 0xD || op == 0xE

/-- The four causes of ILLEGAL (30_encoding.md R83), for a command word that arrives at port `p`. -/
def IllegalWord (c : Config) (p : Port) (cw : Word) : Prop :=
  (cw.extractLsb' 28 4).toNat = 0x0 ∨ (cw.extractLsb' 28 4).toNat = 0xF ∨
  accepts p (cw.extractLsb' 28 4).toNat = false ∨
  reservedBitSet cw = true ∨
  (hasOffset (cw.extractLsb' 28 4).toNat = true ∧ c.ns ≤ (cw.extractLsb' 0 16).toNat)

/-! ## The ownership partition (20_memory.md R52) -/

/-- ENG may access half `h`. -/
def engineMayAccess (s : State) (h : Bool) : Prop := s.engEn = true ∧ h = !s.bufIdx

/-- CONS may access half `h`. -/
def consumerMayAccess (s : State) (h : Bool) : Prop := s.held.valid = true ∧ s.held.ovr = false ∧ h = s.held.idx

/-- HOST may read (both halves). -/
def hostMayRead (s : State) : Prop := s.state = .idle

/-! ## The tables of errors and model faults -/

/-- The table of INVALID_STATE (60_exceptions.md R183). -/
def refusedInState (i : Instr) (s : State) : Bool :=
  match i with
  | .init => s.initd
  | .start => s.state != .idle || !s.initd
  | .stop => s.state != .streaming
  | .wdrain _ => s.state == .idle || s.state == .streaming
  | .reconf _ _ => s.state != .idle
  | .stat _ => false
  | .bufrd _ _ _ _ => s.state != .idle
  | .take _ => s.held.valid
  | .done => !s.held.valid
  | .crd _ _ => !s.held.valid
  | .cwr _ _ _ => !s.held.valid
  | .evt _ => false
  | .ewr _ _ _ _ => false
  | .erd _ _ _ => false

/-- The fault of an engine access to half `half`: MF3 before MF2 (60_exceptions.md R186). -/
def engineFault (half : Bool) (s : State) : Option ModelFault :=
  if s.engEn = false then some .mf3
  else if half = s.bufIdx then some .mf2
  else none

/-- The model fault a command raises, by the table of 60_exceptions.md R186, after the ILLEGAL and INVALID_STATE checks. -/
def faultOf (i : Instr) (s : State) : Option ModelFault :=
  if i.wf s.cfg = false then none
  else if refusedInState i s = true then none
  else
    match i with
    | .init => none
    | .start => none
    | .stop => none
    | .wdrain _ => none
    | .reconf _ _ => none
    | .stat _ => none
    | .bufrd _ _ _ _ => none
    | .take _ => none
    | .done => none
    | .crd _ _ => if s.held.ovr = true then some .mf1 else none
    | .cwr _ _ _ => if s.held.ovr = true then some .mf1 else none
    | .evt _ => none
    | .ewr _ half _ _ => engineFault half s
    | .erd _ half _ => engineFault half s

/-! ## Enabled steps -/

/-- The reference engine's move is enabled (40_engine.md R108). -/
def engineEnabled (m : EngineMove) (s : State) : Bool :=
  s.engEn && s.portE.stream.isEmpty &&
    match m with
    | .write ch => decide (s.eng.off < s.cfg.ns) && !s.eng.made true ch
    | .read ch => decide (s.eng.off < s.cfg.ns) && !s.eng.made false ch
    | .event => s.eng.off == s.cfg.ns

/-- The reference consumer's move is enabled (42_processor.md R138). -/
def consumerEnabled (m : ConsumerMove) (s : State) : Bool :=
  s.portC.stream.isEmpty && s.pendC.isNone &&
    match m with
    | .take => s.cons.phase == .take
    | .read ch off => s.cons.phase == .read && s.cons.wantsRead s.cfg ch off
    | .write ch off _ => s.cons.phase == .write && s.cons.wantsWrite s.cfg ch off
    | .release => s.cons.phase == .release

/-- The turn names a step its agent can take now (30_encoding.md R85, 41_ready_signal.md R123, R124, 43_controller.md R156). -/
def turnEnabled (t : Turn) (s : State) : Bool :=
  match t with
  | .command p => (s.pending p).isNone && (nextCommand (s.port p).stream).isSome
  | .deliver => s.pendC.isSome && s.slot.full
  | .takeTimeout => (s.pendC.map isFinite).getD false && !s.slot.full
  | .finish => s.pendH.isSome && s.drainDone
  | .drainTimeout => (s.pendH.map isFinite).getD false && !s.drainDone
  | .engine m => engineEnabled m s
  | .consumer m => consumerEnabled m s

/-! ## Invariants -/

/-- The eight invariants of 10_state.md R40. -/
structure InvariantsR40 (s : State) : Prop where
  slotIsLatest     : s.slot.full = true → s.slot.idx = s.bufIdx
  heldIsLatest     : s.held.valid = true → s.held.ovr = false → s.held.idx = s.bufIdx
  armedWhileOn     : s.stopArm = true → s.engEn = true → s.state = .stopRequested
  onWhileStreaming : s.engEn = true → s.state = .streaming ∨ s.state = .stopRequested
  drainSignal      : s.drainDone = true → s.state = .draining
  finalInDraining  :
    (s.slot.final = true ∧ s.slot.full = true) ∨ (s.held.final = true ∧ s.held.valid = true) → s.state = .draining
  offAtRest        : s.state = .idle ∨ s.state = .draining → s.engEn = false
  beforeInit       :
    s.initd = false → s.state = .idle ∧ s.engEn = false ∧ s.slot.full = false ∧ s.held.valid = false

/-- The invariants of 10_state.md R40 with what makes them inductive (DEDUCED from the command rules): which states the
stream controls go with, that the final block is the last one, that a rest state holds no block, and what an outstanding command implies. -/
structure Coherent (s : State) : Prop extends InvariantsR40 s where
  onInStreaming     : s.state = .streaming → s.engEn = true ∧ s.stopArm = false
  onInStopRequested : s.state = .stopRequested → s.engEn = true ∧ s.stopArm = true
  signalIsLast      : s.drainDone = true → s.slot.full = false ∧ s.held.valid = false
  finalIsLast       : s.held.final = true → s.held.valid = true → s.slot.full = false
  nothingInIdle     : s.state = .idle → s.slot.full = false ∧ s.held.valid = false
  drainOutstanding  : s.pendH ≠ none → s.state = .stopRequested ∨ s.state = .draining
  takeOutstanding   : s.pendC ≠ none → s.held.valid = false
  noPollOutstanding : s.pendH ≠ some 0#24 ∧ s.pendC ≠ some 0#24

/-- BUF lists the defined words in canonical form, each within BUF and each an SW-bit value (20_memory.md R50, R51). -/
def BufWellFormed (s : State) : Prop :=
  s.buf.wf ∧ ∀ cell ∈ s.buf, cell.1 < 8 * s.cfg.ns ∧ cell.2.toNat < 2 ^ s.cfg.sw

/-- A HIST entry is a command record of port `p`. -/
def isRecordOf (p : Port) : HistEntry → Bool
  | .command r => decide (r.port = p)
  | .output _ => false

/-- Each port's position is the number of its command records in HIST (10_state.md R21, R37). -/
def PositionsCountRecords (s : State) : Prop :=
  ∀ p, (s.port p).pos = (s.hist.filter (isRecordOf p)).length

/-- Port E is driven by the reference engine alone, whose half is the engine's half once INIT has run (40_engine.md R108). -/
structure ReferenceEngineOnly (s : State) : Prop where
  coherent  : Coherent s
  noScript  : s.portE.stream = []
  ownHalf   : s.initd = true → s.eng.half = !s.bufIdx

/-- The state of port C while the reference consumer alone drives it (42_processor.md R138): idle between its commands, holding a
block exactly outside the phase before TAKE; or waiting in its TAKE INF; or halted at an access that recorded MF1. -/
structure ReferenceConsumerOnly (s : State) : Prop where
  coherent : Coherent s
  place    :
    (s.pendC = none ∧ s.portC.stream = [] ∧ (s.cons.phase = .take ↔ s.held.valid = false)) ∨
    (s.pendC = some 0xFFFFFF#24 ∧ s.portC.stream = [0x80FFFFFF#32] ∧ s.cons.phase = .read) ∨
    (s.pendC = none ∧ s.held.valid = true ∧ s.held.ovr = true ∧
      ∃ ch off, off.toNat < s.cfg.ns ∧
        (s.portC.stream = encode (.crd ch off) ∨ ∃ dw, s.portC.stream = encode (.cwr ch off dw)))

/-- The channel that is not this one. -/
def otherChannel : Channel → Channel
  | .left => .right
  | .right => .left

/-- The k-th word of the write loop that begins with channel `ch` (42_processor.md R138): its offsets ascending, then the other's. -/
def writeLoopWord (c : Config) (ch : Channel) (k : Nat) : Channel × BitVec 16 :=
  if k < c.ns then (ch, BitVec.ofNat 16 k) else (otherChannel ch, BitVec.ofNat 16 (k - c.ns))

/-- The reference engine is inside its period (40_engine.md R108) and the reference consumer inside its loop (42_processor.md R138):
an access of the offset the engine is at is still to make, or only the EVT; a word of the consumer's phase is still to come; the
words read are distinct words of the block; the words written are the first ones of the write loop, in its order. -/
structure AgentsWithinTheirLoops (s : State) : Prop where
  ringOffset    : s.eng.off ≤ s.cfg.ns
  ringOpen      : ¬ (s.eng.wroteLeft = true ∧ s.eng.wroteRight = true ∧ s.eng.readLeft = true ∧ s.eng.readRight = true)
  loopOpen      : s.cons.seen.length < 2 * s.cfg.ns
  readsOnce     : s.cons.phase = .read → s.cons.seen.Nodup ∧ ∀ w ∈ s.cons.seen, w.2.toNat < s.cfg.ns
  writesInOrder :
    s.cons.phase = .write →
      ∃ ch, s.cons.seen.reverse = (List.range s.cons.seen.length).map (writeLoopWord s.cfg ch)

/-! ## Runs -/

/-- Reset of a machine with parameters `c` whose agents bring these streams and this order of steps (00_scope.md R7, 10_state.md R42). -/
def State.loaded (c : Config) (host cons eng : List Word) (sched : List Turn) : State :=
  { State.resetOf c with
    portH := { pos := 0, stream := host }
    portC := { pos := 0, stream := cons }
    portE := { pos := 0, stream := eng }
    sched := sched }

/-- The states of the runs of a machine with parameters `c`: from reset, for any streams and any order of steps. -/
inductive Reachable (c : Config) : State → Prop where
  | start (host cons eng : List Word) (sched : List Turn) : Reachable c (State.loaded c host cons eng sched)
  | step {s t : State} : Reachable c s → step s = .next t → Reachable c t

/-- Which agents a claim takes for ENG and CONS: the reference ones, or agents that bring command streams (40_engine.md R108,
42_processor.md R138: "unless a claim names another"). -/
structure Environment where
  refEngine   : Bool
  refConsumer : Bool
  deriving DecidableEq, Repr

/-- The turns of the agents of this environment. -/
def Environment.includes (env : Environment) : Turn → Bool
  | .command _ => true
  | .deliver => true
  | .takeTimeout => true
  | .finish => true
  | .drainTimeout => true
  | .engine _ => env.refEngine
  | .consumer _ => env.refConsumer

/-- Some agent can take a step that does something: a faulted access that only records its fault again is none (log 5, log 20). -/
def CanStep (env : Environment) (s : State) : Prop := ∃ u, env.includes u = true ∧ runTurn u s ≠ .next s

/-- A successful end of a run (70_reset_and_hazards.md R222). The reference consumer's loop has no end, so its stream is never
exhausted (log 20). -/
structure SuccessfulEnd (env : Environment) (s : State) : Prop where
  noFault       : s.FaultFree
  nothingPends  : s.pendH = none ∧ s.pendC = none
  hostDone      : s.portH.stream = []
  consumerDone  : s.portC.stream = [] ∧ env.refConsumer = false
  engineDone    : s.portE.stream = [] ∧ (env.refEngine = true → s.engEn = false ∧ ∀ m, engineEnabled m s = false)

/-- A failed end of a run (70_reset_and_hazards.md R222): no agent can step, and the end is not successful. -/
structure FailedEnd (env : Environment) (s : State) : Prop where
  stuck         : ¬ CanStep env s
  notSuccessful : ¬ SuccessfulEnd env s

end Sys2Proof.Machine
end

