-- ==== Sys2Proof/Certificates/Slice0/Obligations.lean ====
section
/-! DEFINITION. The statements about the machine. A next state is written out field by field, so that each statement carries
its frame: what is not named is as before. HIST records carry the command word as the rule writes it. -/

open Sys2Proof Sys2Proof.Machine

/-! ## Reset -/

/-- 70_reset_and_hazards.md R210: every element of R22 has its reset value, for every value of the open parameters,
the STATUS image is 0x00000004, and no output event has been emitted. -/
def Obligations.ResetPutsEveryElementAtItsValue : Prop :=
  ∀ c : Config,
    (State.resetOf c).state = .idle ∧
    (State.resetOf c).bufIdx = true ∧
    (State.resetOf c).slot = ⟨false, false, false⟩ ∧
    (State.resetOf c).held = ⟨false, false, false, false⟩ ∧
    (State.resetOf c).engEn = false ∧
    (State.resetOf c).stopArm = false ∧
    (State.resetOf c).drainDone = false ∧
    (State.resetOf c).initd = false ∧
    (State.resetOf c).rate = c.resetRate ∧
    (State.resetOf c).size = c.resetSize ∧
    (State.resetOf c).xportEn = false ∧
    (∀ dir ch half off, (State.resetOf c).bufWord dir ch half off = none) ∧
    (State.resetOf c).pendH = none ∧
    (State.resetOf c).pendC = none ∧
    (State.resetOf c).FaultFree ∧
    (State.resetOf c).hist = [] ∧
    statusImage (State.resetOf c) = 0x00000004#32

/-- The invariants of this file hold after reset, for any streams and any order of steps the agents bring, and whatever the
open parameters. -/
def Obligations.ResetMeetsTheInvariants : Prop :=
  ∀ (c : Config) (host cons eng : List Word) (sched : List Turn),
    Coherent (State.loaded c host cons eng sched) ∧
    BufWellFormed (State.loaded c host cons eng sched) ∧
    PositionsCountRecords (State.loaded c host cons eng sched) ∧
    AgentsWithinTheirLoops (State.loaded c host cons eng sched) ∧
    ReferenceEngineOnly (State.loaded c host cons [] sched) ∧
    ReferenceConsumerOnly (State.loaded c host [] eng sched)

/-! ## Encoding -/

/-- Decoding the words of a well-formed command, on the port that accepts it, gives the command back: no operand bit is dropped. -/
def Obligations.DecodeOfEncodeIsTheCommand : Prop :=
  ∀ (c : Config) (i : Instr), i.wf c = true → decode c i.port i.cw (i.dw.getD 0#32) = .ok i

/-- What decodes is well formed, is of the port it arrived on, and encodes to the words it was decoded from: every word has one meaning. -/
def Obligations.EncodeOfDecodeIsTheWords : Prop :=
  ∀ (c : Config) (p : Port) (cw dw : Word) (i : Instr), decode c p cw dw = .ok i →
    i.wf c = true ∧ i.port = p ∧ encode i = if twoWords cw then [cw, dw] else [cw]

/-- 30_encoding.md R89: the encoding examples, on every machine with room for their offsets. -/
def Obligations.EncodingExamplesDecode : Prop :=
  ∀ (c : Config) (dw : Word), 5 < c.ns →
    decode c .host 0x10000000#32 dw = .ok .init ∧
    decode c .host 0x20000000#32 dw = .ok .start ∧
    decode c .host 0x30000000#32 dw = .ok .stop ∧
    decode c .host 0x40FFFFFF#32 dw = .ok (.wdrain 0xFFFFFF#24) ∧
    decode c .host 0x51807D00#32 dw = .ok (.reconf 32000#20 24#6) ∧
    decode c .host 0x5100BB80#32 dw = .ok (.reconf 48000#20 16#6) ∧
    decode c .host 0x60000000#32 dw = .ok (.stat false) ∧
    decode c .host 0x7E000002#32 dw = .ok (.bufrd .output .right true 2#16) ∧
    decode c .consumer 0x80FFFFFF#32 dw = .ok (.take 0xFFFFFF#24) ∧
    decode c .consumer 0x80000064#32 dw = .ok (.take 100#24) ∧
    decode c .consumer 0x90000000#32 dw = .ok .done ∧
    decode c .consumer 0xA4000005#32 dw = .ok (.crd .right 5#16) ∧
    decode c .consumer 0xB0000000#32 0x00001234#32 = .ok (.cwr .left 0#16 0x1234#32) ∧
    decode c .engine 0xC0000001#32 dw = .ok (.evt true) ∧
    decode c .engine 0xD6000003#32 0x00000007#32 = .ok (.ewr .right true 3#16 7#32) ∧
    decode c .engine 0xE0000000#32 dw = .ok (.erd .left false 0#16)

/-- The decoder refuses a word exactly for the four causes of 30_encoding.md R83 (the ports by R73, the reserved bits by R74 to R81). -/
def Obligations.DecoderRefusesExactlyTheIllegalWords : Prop :=
  ∀ (c : Config) (p : Port) (cw dw : Word), (∃ e, decode c p cw dw = .error e) ↔ IllegalWord c p cw

/-- 30_encoding.md R83: a command that is ILLEGAL completes with {ILLEGAL, 0}, changes no state and emits no event; both words
of a two-word command are consumed, on every port. -/
def Obligations.IllegalCommandOnlyCompletes : Prop :=
  ∀ (s : State) (p : Port) (cw : Word) (dw : Option Word),
    s.pending p = none → nextCommand (s.port p).stream = some (cw, dw) → IllegalWord s.cfg p cw →
    ∃ t, takeCommand p s = .next t ∧
      t.hist = s.hist ++ [.command ⟨p, cw, dw, .illegal, 0#32, false⟩] ∧
      (t.port p).pos = (s.port p).pos + 1 ∧
      (t.port p).stream = (s.port p).stream.drop (if twoWords cw then 2 else 1) ∧
      (∀ p', p' ≠ p → t.port p' = s.port p') ∧
      { t with hist := s.hist, portH := s.portH, portC := s.portC, portE := s.portE } = s

/-- The length of a command is fixed by OP alone (30_encoding.md R71): a port that takes a command reads DW exactly when OP is
0xB or 0xD, and the model's port waits while the DW has not arrived (log 9). -/
def Obligations.CommandLengthIsFixedByOp : Prop :=
  ∀ (cw : Word) (rest : List Word),
    (((cw.extractLsb' 28 4).toNat = 0xB ∨ (cw.extractLsb' 28 4).toNat = 0xD) →
      (∀ dw, nextCommand (cw :: dw :: rest) = some (cw, some dw)) ∧ nextCommand [cw] = none) ∧
    ((cw.extractLsb' 28 4).toNat ≠ 0xB → (cw.extractLsb' 28 4).toNat ≠ 0xD → nextCommand (cw :: rest) = some (cw, none))

/-! ## Steps and ports -/

/-- When the words at the head of a free port's stream decode to `i` and the port's agent has the next turn, the step is the
rule of `i`, in the state whose schedule has moved on (30_encoding.md R85, R86). -/
def Obligations.StepRunsTheDecodedCommand : Prop :=
  ∀ (s : State) (p : Port) (ts : List Turn) (cw : Word) (dw : Option Word) (i : Instr),
    s.sched = .command p :: ts → s.pending p = none → nextCommand (s.port p).stream = some (cw, dw) →
    decode s.cfg p cw (dw.getD 0#32) = .ok i → step s = exec i { s with sched := ts }

/-- A port with an outstanding command takes no command (30_encoding.md R85; 95_test_vectors.md C-18): its agent's turn changes nothing. -/
def Obligations.PendingPortTakesNoCommand : Prop :=
  ∀ (s : State) (p : Port), s.pending p ≠ none → takeCommand p s = .next s

/-- A step always answers a next state: no command, error or model fault stops the machine (60_exceptions.md R180). -/
def Obligations.StepNeverStops : Prop := ∀ s : State, ∃ t, step s = .next t

/-- A turn that is not enabled changes nothing (the model's choice, log 4). -/
def Obligations.DisabledTurnChangesNothing : Prop :=
  ∀ (u : Turn) (s : State), turnEnabled u s = false → runTurn u s = .next s

/-- An enabled turn completes a command (HIST gains a command record), leaves one outstanding, or leaves a model fault recorded. -/
def Obligations.EnabledTurnDoesSomething : Prop :=
  ∀ (u : Turn) (s : State), turnEnabled u s = true →
    ∃ t, runTurn u s = .next t ∧
      ((∃ l r, t.hist = s.hist ++ l ++ [.command r]) ∨
       (s.pendH = none ∧ t.pendH ≠ none) ∨ (s.pendC = none ∧ t.pendC ≠ none) ∨ ¬ t.FaultFree)

/-! ## Engine family -/

/-- 40_engine.md R102: INIT. -/
def Obligations.InitConfiguresTheRingOnce : Prop :=
  (∀ s : State, s.initd = false →
    exec .init s = .next { s with
      bufIdx := true
      slot := ⟨false, false, false⟩
      drainDone := false
      initd := true
      eng := ⟨false, 0, false, false, false, false⟩
      hist := s.hist ++ [.output .engCfg, .command ⟨.host, 0x10000000#32, none, .ok, 0#32, false⟩]
      portH := ⟨s.portH.pos + 1, s.portH.stream.drop 1⟩ }) ∧
  (∀ s : State, s.initd = true →
    exec .init s = .next { s with
      hist := s.hist ++ [.command ⟨.host, 0x10000000#32, none, .invalidState, 0#32, false⟩]
      portH := ⟨s.portH.pos + 1, s.portH.stream.drop 1⟩ }) ∧
  ReservedBitIllegal .host 0x10000000#32 0xFFFFFFFF#32

/-- 40_engine.md R103 with the halt of R104 and the post of 41_ready_signal.md R120: EVT. -/
def Obligations.EventCopiesTcPostsAndHalts : Prop :=
  (∀ (s : State) (tc : Bool), s.engEn = true → s.stopArm = false →
    exec (.evt tc) s = .next { s with
      bufIdx := tc
      held := { s.held with ovr := if s.held.valid then true else s.held.ovr }
      slot := ⟨true, tc, false⟩
      hist := s.hist ++ [.command ⟨.engine, 0xC0000000#32 ||| bit32 tc, none, .ok, 1#32, false⟩]
      portE := ⟨s.portE.pos + 1, s.portE.stream.drop 1⟩ }) ∧
  (∀ (s : State) (tc : Bool), s.engEn = true → s.stopArm = true →
    exec (.evt tc) s = .next { s with
      bufIdx := tc
      held := { s.held with ovr := if s.held.valid then true else s.held.ovr }
      slot := ⟨true, tc, true⟩
      engEn := false
      state := .draining
      hist := s.hist ++ [.command ⟨.engine, 0xC0000000#32 ||| bit32 tc, none, .ok, 1#32, false⟩]
      portE := ⟨s.portE.pos + 1, s.portE.stream.drop 1⟩ }) ∧
  (∀ (s : State) (tc : Bool), s.engEn = false →
    exec (.evt tc) s = .next { s with
      hist := s.hist ++ [.command ⟨.engine, 0xC0000000#32 ||| bit32 tc, none, .ok, 0#32, false⟩]
      portE := ⟨s.portE.pos + 1, s.portE.stream.drop 1⟩ }) ∧
  ReservedBitIllegal .engine 0xC0000000#32 0xFFFFFFFE#32

/-- 40_engine.md R105: EWR. -/
def Obligations.EngineWriteStoresOneInputSample : Prop :=
  (∀ (s : State) (ch : Channel) (half : Bool) (off : BitVec 16) (dw : Word),
    off.toNat < s.cfg.ns → s.engEn = true → half = !s.bufIdx →
    ∃ (b : Memory) (v : Word),
      exec (.ewr ch half off dw) s = .next { s with
        buf := b
        hist := s.hist ++ [.command ⟨.engine,
          0xD0000000#32 ||| bit32 ch.bit <<< 26 ||| bit32 half <<< 25 ||| off.setWidth 32, some dw, .ok, 0#32, false⟩]
        portE := ⟨s.portE.pos + 1, s.portE.stream.drop 2⟩ } ∧
      v.toNat = dw.toNat % 2 ^ (8 * s.cfg.bps.bytes) ∧
      ∀ a, b.get a = if a = flatAddress s.cfg .input ch half off then some v else s.buf.get a) ∧
  (∀ (s : State) (ch : Channel) (half : Bool) (off : BitVec 16) (dw : Word), s.cfg.ns ≤ off.toNat →
    exec (.ewr ch half off dw) s = .next { s with
      hist := s.hist ++ [.command ⟨.engine,
        0xD0000000#32 ||| bit32 ch.bit <<< 26 ||| bit32 half <<< 25 ||| off.setWidth 32, some dw, .illegal, 0#32, false⟩]
      portE := ⟨s.portE.pos + 1, s.portE.stream.drop 2⟩ }) ∧
  (∀ (s : State) (ch : Channel) (half : Bool) (off : BitVec 16) (dw : Word), off.toNat < s.cfg.ns → s.engEn = false →
    exec (.ewr ch half off dw) s = .next { s with faults := { s.faults with mf3 := true } }) ∧
  (∀ (s : State) (ch : Channel) (half : Bool) (off : BitVec 16) (dw : Word),
    off.toNat < s.cfg.ns → s.engEn = true → half = s.bufIdx →
    exec (.ewr ch half off dw) s = .next { s with faults := { s.faults with mf2 := true } }) ∧
  ReservedBitIllegal .engine 0xD0000000#32 0xF9FF0000#32

/-- 40_engine.md R106 with 20_memory.md R54: ERD. The value of a draw is free, so only its width is stated. -/
def Obligations.EngineReadAnswersOneOutputSample : Prop :=
  (∀ (s : State) (ch : Channel) (half : Bool) (off : BitVec 16) (w : Word),
    off.toNat < s.cfg.ns → s.engEn = true → half = !s.bufIdx → s.bufWord .output ch half off = some w →
    exec (.erd ch half off) s = .next { s with
      hist := s.hist ++ [.command ⟨.engine,
        0xE0000000#32 ||| bit32 ch.bit <<< 26 ||| bit32 half <<< 25 ||| off.setWidth 32, none, .ok, w, false⟩]
      portE := ⟨s.portE.pos + 1, s.portE.stream.drop 1⟩ }) ∧
  (∀ (s : State) (ch : Channel) (half : Bool) (off : BitVec 16),
    off.toNat < s.cfg.ns → s.engEn = true → half = !s.bufIdx → s.bufWord .output ch half off = none →
    ∃ d : Word, d.toNat < 2 ^ (8 * s.cfg.bps.bytes) ∧
      exec (.erd ch half off) s = .next { s with
        draws := s.draws + 1
        hist := s.hist ++ [.command ⟨.engine,
          0xE0000000#32 ||| bit32 ch.bit <<< 26 ||| bit32 half <<< 25 ||| off.setWidth 32, none, .ok, d, true⟩]
        portE := ⟨s.portE.pos + 1, s.portE.stream.drop 1⟩ }) ∧
  (∀ (s : State) (ch : Channel) (half : Bool) (off : BitVec 16), s.cfg.ns ≤ off.toNat →
    exec (.erd ch half off) s = .next { s with
      hist := s.hist ++ [.command ⟨.engine,
        0xE0000000#32 ||| bit32 ch.bit <<< 26 ||| bit32 half <<< 25 ||| off.setWidth 32, none, .illegal, 0#32, false⟩]
      portE := ⟨s.portE.pos + 1, s.portE.stream.drop 1⟩ }) ∧
  (∀ (s : State) (ch : Channel) (half : Bool) (off : BitVec 16), off.toNat < s.cfg.ns → s.engEn = false →
    exec (.erd ch half off) s = .next { s with faults := { s.faults with mf3 := true } }) ∧
  (∀ (s : State) (ch : Channel) (half : Bool) (off : BitVec 16),
    off.toNat < s.cfg.ns → s.engEn = true → half = s.bufIdx →
    exec (.erd ch half off) s = .next { s with faults := { s.faults with mf2 := true } }) ∧
  ReservedBitIllegal .engine 0xE0000000#32 0xF9FF0000#32

/-! ## Ready-signal family -/

/-- 41_ready_signal.md R122: TAKE, the issuing step. -/
def Obligations.TakeDeliversPollsOrPends : Prop :=
  (∀ (s : State) (tmo : BitVec 24), s.held.valid = true →
    exec (.take tmo) s = .next { s with
      hist := s.hist ++ [.command ⟨.consumer, 0x80000000#32 ||| tmo.setWidth 32, none, .invalidState, 0#32, false⟩]
      portC := ⟨s.portC.pos + 1, s.portC.stream.drop 1⟩ }) ∧
  (∀ (s : State) (tmo : BitVec 24), s.held.valid = false → s.slot.full = true →
    exec (.take tmo) s = .next { s with
      held := ⟨true, s.slot.idx, s.slot.final, false⟩
      slot := ⟨false, s.slot.idx, s.slot.final⟩
      pendC := none
      hist := s.hist ++ [.command ⟨.consumer, 0x80000000#32 ||| tmo.setWidth 32, none, .ok,
        bit32 s.slot.final <<< 1 ||| bit32 s.slot.idx, false⟩]
      portC := ⟨s.portC.pos + 1, s.portC.stream.drop 1⟩ }) ∧
  (∀ s : State, s.held.valid = false → s.slot.full = false →
    exec (.take 0x000000#24) s = .next { s with
      hist := s.hist ++ [.command ⟨.consumer, 0x80000000#32, none, .timeout, 0#32, false⟩]
      portC := ⟨s.portC.pos + 1, s.portC.stream.drop 1⟩ }) ∧
  (∀ (s : State) (tmo : BitVec 24), s.held.valid = false → s.slot.full = false → tmo ≠ 0x000000#24 →
    exec (.take tmo) s = .next { s with pendC := some tmo }) ∧
  ReservedBitIllegal .consumer 0x80000000#32 0xFF000000#32

/-- 41_ready_signal.md R123 and R124: the delivery and the timeout step of an outstanding TAKE, and when they are not enabled; that a
turn which is not enabled changes nothing is the model's choice (log 4). -/
def Obligations.OutstandingTakeDeliversOrTimesOut : Prop :=
  (∀ (s : State) (tmo : BitVec 24), s.pendC = some tmo → s.slot.full = true →
    runTurn .deliver s = .next { s with
      held := ⟨true, s.slot.idx, s.slot.final, false⟩
      slot := ⟨false, s.slot.idx, s.slot.final⟩
      pendC := none
      hist := s.hist ++ [.command ⟨.consumer, 0x80000000#32 ||| tmo.setWidth 32, none, .ok,
        bit32 s.slot.final <<< 1 ||| bit32 s.slot.idx, false⟩]
      portC := ⟨s.portC.pos + 1, s.portC.stream.drop 1⟩ }) ∧
  (∀ s : State, s.pendC = none ∨ s.slot.full = false → runTurn .deliver s = .next s) ∧
  (∀ (s : State) (tmo : BitVec 24), s.pendC = some tmo → 0 < tmo.toNat → tmo.toNat < 0xFFFFFF → s.slot.full = false →
    runTurn .takeTimeout s = .next { s with
      pendC := none
      hist := s.hist ++ [.command ⟨.consumer, 0x80000000#32 ||| tmo.setWidth 32, none, .timeout, 0#32, false⟩]
      portC := ⟨s.portC.pos + 1, s.portC.stream.drop 1⟩ }) ∧
  (∀ s : State, s.slot.full = true ∨ s.pendC = some 0xFFFFFF#24 ∨ s.pendC = none → runTurn .takeTimeout s = .next s)

/-! ## Processor family -/

/-- 42_processor.md R135: DONE. -/
def Obligations.DoneReleasesAndSignalsTheFinalBlock : Prop :=
  (∀ s : State, s.held.valid = true →
    exec .done s = .next { s with
      drainDone := if s.held.final = true ∧ s.state = .draining then true else s.drainDone
      held := { s.held with valid := false }
      hist := s.hist ++ [.command ⟨.consumer, 0x90000000#32, none, .ok, 0#32, false⟩]
      portC := ⟨s.portC.pos + 1, s.portC.stream.drop 1⟩ }) ∧
  (∀ s : State, s.held.valid = false →
    exec .done s = .next { s with
      hist := s.hist ++ [.command ⟨.consumer, 0x90000000#32, none, .invalidState, 0#32, false⟩]
      portC := ⟨s.portC.pos + 1, s.portC.stream.drop 1⟩ }) ∧
  ReservedBitIllegal .consumer 0x90000000#32 0xFFFFFFFF#32

/-- 42_processor.md R136: CRD. The value of a draw is free, so only its width is stated. -/
def Obligations.ConsumerReadAnswersTheHeldInputBlock : Prop :=
  (∀ (s : State) (ch : Channel) (off : BitVec 16) (w : Word),
    off.toNat < s.cfg.ns → s.held.valid = true → s.held.ovr = false → s.bufWord .input ch s.held.idx off = some w →
    exec (.crd ch off) s = .next { s with
      hist := s.hist ++ [.command ⟨.consumer, 0xA0000000#32 ||| bit32 ch.bit <<< 26 ||| off.setWidth 32, none, .ok, w, false⟩]
      portC := ⟨s.portC.pos + 1, s.portC.stream.drop 1⟩ }) ∧
  (∀ (s : State) (ch : Channel) (off : BitVec 16),
    off.toNat < s.cfg.ns → s.held.valid = true → s.held.ovr = false → s.bufWord .input ch s.held.idx off = none →
    ∃ d : Word, d.toNat < 2 ^ (8 * s.cfg.bps.bytes) ∧
      exec (.crd ch off) s = .next { s with
        draws := s.draws + 1
        hist := s.hist ++ [.command ⟨.consumer, 0xA0000000#32 ||| bit32 ch.bit <<< 26 ||| off.setWidth 32, none, .ok, d, true⟩]
        portC := ⟨s.portC.pos + 1, s.portC.stream.drop 1⟩ }) ∧
  (∀ (s : State) (ch : Channel) (off : BitVec 16), s.cfg.ns ≤ off.toNat →
    exec (.crd ch off) s = .next { s with
      hist := s.hist ++ [.command ⟨.consumer, 0xA0000000#32 ||| bit32 ch.bit <<< 26 ||| off.setWidth 32, none, .illegal, 0#32, false⟩]
      portC := ⟨s.portC.pos + 1, s.portC.stream.drop 1⟩ }) ∧
  (∀ (s : State) (ch : Channel) (off : BitVec 16), off.toNat < s.cfg.ns → s.held.valid = false →
    exec (.crd ch off) s = .next { s with
      hist := s.hist ++ [.command ⟨.consumer, 0xA0000000#32 ||| bit32 ch.bit <<< 26 ||| off.setWidth 32, none, .invalidState, 0#32, false⟩]
      portC := ⟨s.portC.pos + 1, s.portC.stream.drop 1⟩ }) ∧
  (∀ (s : State) (ch : Channel) (off : BitVec 16), off.toNat < s.cfg.ns → s.held.valid = true → s.held.ovr = true →
    exec (.crd ch off) s = .next { s with faults := { s.faults with mf1 := true } }) ∧
  ReservedBitIllegal .consumer 0xA0000000#32 0xFBFF0000#32

/-- 42_processor.md R137: CWR. -/
def Obligations.ConsumerWriteStoresToTheHeldOutputBlock : Prop :=
  (∀ (s : State) (ch : Channel) (off : BitVec 16) (dw : Word),
    off.toNat < s.cfg.ns → s.held.valid = true → s.held.ovr = false →
    ∃ (b : Memory) (v : Word),
      exec (.cwr ch off dw) s = .next { s with
        buf := b
        hist := s.hist ++ [.command ⟨.consumer, 0xB0000000#32 ||| bit32 ch.bit <<< 26 ||| off.setWidth 32, some dw, .ok, 0#32, false⟩]
        portC := ⟨s.portC.pos + 1, s.portC.stream.drop 2⟩ } ∧
      v.toNat = dw.toNat % 2 ^ (8 * s.cfg.bps.bytes) ∧
      ∀ a, b.get a = if a = flatAddress s.cfg .output ch s.held.idx off then some v else s.buf.get a) ∧
  (∀ (s : State) (ch : Channel) (off : BitVec 16) (dw : Word), s.cfg.ns ≤ off.toNat →
    exec (.cwr ch off dw) s = .next { s with
      hist := s.hist ++ [.command ⟨.consumer, 0xB0000000#32 ||| bit32 ch.bit <<< 26 ||| off.setWidth 32, some dw, .illegal, 0#32, false⟩]
      portC := ⟨s.portC.pos + 1, s.portC.stream.drop 2⟩ }) ∧
  (∀ (s : State) (ch : Channel) (off : BitVec 16) (dw : Word), off.toNat < s.cfg.ns → s.held.valid = false →
    exec (.cwr ch off dw) s = .next { s with
      hist := s.hist ++ [.command ⟨.consumer, 0xB0000000#32 ||| bit32 ch.bit <<< 26 ||| off.setWidth 32, some dw, .invalidState, 0#32, false⟩]
      portC := ⟨s.portC.pos + 1, s.portC.stream.drop 2⟩ }) ∧
  (∀ (s : State) (ch : Channel) (off : BitVec 16) (dw : Word),
    off.toNat < s.cfg.ns → s.held.valid = true → s.held.ovr = true →
    exec (.cwr ch off dw) s = .next { s with faults := { s.faults with mf1 := true } }) ∧
  ReservedBitIllegal .consumer 0xB0000000#32 0xFBFF0000#32

/-! ## Controller family -/

/-- 43_controller.md R151: START. -/
def Obligations.StartResumesTheEngineFromIdle : Prop :=
  (∀ s : State, s.state = .idle → s.initd = true →
    exec .start s = .next { s with
      stopArm := false
      drainDone := false
      engEn := true
      xportEn := true
      state := .streaming
      hist := s.hist ++ [.output .xportClrFlags, .command ⟨.host, 0x20000000#32, none, .ok, 0#32, false⟩]
      portH := ⟨s.portH.pos + 1, s.portH.stream.drop 1⟩ }) ∧
  (∀ s : State, s.state ≠ .idle ∨ s.initd = false →
    exec .start s = .next { s with
      hist := s.hist ++ [.command ⟨.host, 0x20000000#32, none, .invalidState, 0#32, false⟩]
      portH := ⟨s.portH.pos + 1, s.portH.stream.drop 1⟩ }) ∧
  ReservedBitIllegal .host 0x20000000#32 0xFFFFFFFF#32

/-- 43_controller.md R153: STOP. -/
def Obligations.StopArmsTheBoundaryWithoutWaiting : Prop :=
  (∀ s : State, s.state = .streaming →
    exec .stop s = .next { s with
      state := .stopRequested
      stopArm := true
      hist := s.hist ++ [.command ⟨.host, 0x30000000#32, none, .ok, 0#32, false⟩]
      portH := ⟨s.portH.pos + 1, s.portH.stream.drop 1⟩ }) ∧
  (∀ s : State, s.state ≠ .streaming →
    exec .stop s = .next { s with
      hist := s.hist ++ [.command ⟨.host, 0x30000000#32, none, .invalidState, 0#32, false⟩]
      portH := ⟨s.portH.pos + 1, s.portH.stream.drop 1⟩ }) ∧
  ReservedBitIllegal .host 0x30000000#32 0xFFFFFFFF#32

/-- 43_controller.md R155: WDRAIN, the issuing step. -/
def Obligations.DrainWaitFinishesPollsOrPends : Prop :=
  (∀ (s : State) (tmo : BitVec 24), s.state = .idle ∨ s.state = .streaming →
    exec (.wdrain tmo) s = .next { s with
      hist := s.hist ++ [.command ⟨.host, 0x40000000#32 ||| tmo.setWidth 32, none, .invalidState, 0#32, false⟩]
      portH := ⟨s.portH.pos + 1, s.portH.stream.drop 1⟩ }) ∧
  (∀ (s : State) (tmo : BitVec 24), s.state = .stopRequested ∨ s.state = .draining → s.drainDone = true →
    exec (.wdrain tmo) s = .next { s with
      drainDone := false
      state := .idle
      pendH := none
      hist := s.hist ++ [.command ⟨.host, 0x40000000#32 ||| tmo.setWidth 32, none, .ok, 0#32, false⟩]
      portH := ⟨s.portH.pos + 1, s.portH.stream.drop 1⟩ }) ∧
  (∀ s : State, s.state = .stopRequested ∨ s.state = .draining → s.drainDone = false →
    exec (.wdrain 0x000000#24) s = .next { s with
      hist := s.hist ++ [.command ⟨.host, 0x40000000#32, none, .timeout, 0#32, false⟩]
      portH := ⟨s.portH.pos + 1, s.portH.stream.drop 1⟩ }) ∧
  (∀ (s : State) (tmo : BitVec 24),
    s.state = .stopRequested ∨ s.state = .draining → s.drainDone = false → tmo ≠ 0x000000#24 →
    exec (.wdrain tmo) s = .next { s with pendH := some tmo }) ∧
  ReservedBitIllegal .host 0x40000000#32 0xFF000000#32

/-- 43_controller.md R156: the finish and the timeout step of an outstanding WDRAIN, and when they are not enabled; that a turn
which is not enabled changes nothing is the model's choice (log 4). -/
def Obligations.OutstandingDrainWaitFinishesOrTimesOut : Prop :=
  (∀ (s : State) (tmo : BitVec 24), s.pendH = some tmo → s.drainDone = true →
    runTurn .finish s = .next { s with
      drainDone := false
      state := .idle
      pendH := none
      hist := s.hist ++ [.command ⟨.host, 0x40000000#32 ||| tmo.setWidth 32, none, .ok, 0#32, false⟩]
      portH := ⟨s.portH.pos + 1, s.portH.stream.drop 1⟩ }) ∧
  (∀ s : State, s.pendH = none ∨ s.drainDone = false → runTurn .finish s = .next s) ∧
  (∀ (s : State) (tmo : BitVec 24), s.pendH = some tmo → 0 < tmo.toNat → tmo.toNat < 0xFFFFFF → s.drainDone = false →
    runTurn .drainTimeout s = .next { s with
      pendH := none
      hist := s.hist ++ [.command ⟨.host, 0x40000000#32 ||| tmo.setWidth 32, none, .timeout, 0#32, false⟩]
      portH := ⟨s.portH.pos + 1, s.portH.stream.drop 1⟩ }) ∧
  (∀ s : State, s.drainDone = true ∨ s.pendH = some 0xFFFFFF#24 ∨ s.pendH = none → runTurn .drainTimeout s = .next s)

/-- 43_controller.md R157: RECONF. -/
def Obligations.ReconfChangesParametersInIdle : Prop :=
  (∀ (s : State) (rate : BitVec 20) (size : BitVec 6), s.state = .idle →
    exec (.reconf rate size) s = .next { s with
      rate := rate
      size := size
      hist := s.hist ++ [.output (.xportCfg rate size),
        .command ⟨.host, 0x50000000#32 ||| size.setWidth 32 <<< 20 ||| rate.setWidth 32, none, .ok, 0#32, false⟩]
      portH := ⟨s.portH.pos + 1, s.portH.stream.drop 1⟩ }) ∧
  (∀ (s : State) (rate : BitVec 20) (size : BitVec 6), s.state ≠ .idle →
    exec (.reconf rate size) s = .next { s with
      hist := s.hist ++ [.command ⟨.host, 0x50000000#32 ||| size.setWidth 32 <<< 20 ||| rate.setWidth 32, none, .invalidState, 0#32, false⟩]
      portH := ⟨s.portH.pos + 1, s.portH.stream.drop 1⟩ }) ∧
  ReservedBitIllegal .host 0x50000000#32 0xFC000000#32

/-! ## Diagnostics family -/

/-- 44_diagnostics.md R170 with the images of 10_state.md R38 and R39: STAT, in every state, has no other effect. -/
def Obligations.StatAnswersTheImages : Prop :=
  (∀ s : State, ∃ d : Word,
    exec (.stat false) s = .next { s with
      hist := s.hist ++ [.command ⟨.host, 0x60000000#32, none, .ok, d, false⟩]
      portH := ⟨s.portH.pos + 1, s.portH.stream.drop 1⟩ } ∧
    (d.extractLsb' 0 2).toNat =
      (match s.state with | .idle => 0 | .streaming => 1 | .stopRequested => 2 | .draining => 3) ∧
    d.getLsbD 2 = s.bufIdx ∧
    d.getLsbD 3 = s.slot.full ∧
    d.getLsbD 4 = s.slot.idx ∧
    d.getLsbD 5 = s.slot.final ∧
    d.getLsbD 6 = s.held.valid ∧
    d.getLsbD 7 = s.held.idx ∧
    d.getLsbD 8 = s.held.final ∧
    d.getLsbD 9 = s.engEn ∧
    d.getLsbD 10 = s.stopArm ∧
    d.getLsbD 11 = s.drainDone ∧
    d.getLsbD 12 = s.initd ∧
    d.getLsbD 13 = s.xportEn ∧
    d.extractLsb' 14 18 = 0#18) ∧
  (∀ s : State, ∃ d : Word,
    exec (.stat true) s = .next { s with
      hist := s.hist ++ [.command ⟨.host, 0x60000001#32, none, .ok, d, false⟩]
      portH := ⟨s.portH.pos + 1, s.portH.stream.drop 1⟩ } ∧
    d.extractLsb' 0 20 = s.rate ∧ d.extractLsb' 20 6 = s.size ∧ d.extractLsb' 26 6 = 0#6) ∧
  ReservedBitIllegal .host 0x60000000#32 0xFFFFFFFE#32

/-- 44_diagnostics.md R171: BUFRD. The value of a draw is free, so only its width is stated. -/
def Obligations.DumpReadsOneWordInIdle : Prop :=
  (∀ (s : State) (dir : Dir) (ch : Channel) (half : Bool) (off : BitVec 16) (w : Word),
    off.toNat < s.cfg.ns → s.state = .idle → s.bufWord dir ch half off = some w →
    exec (.bufrd dir ch half off) s = .next { s with
      hist := s.hist ++ [.command ⟨.host,
        0x70000000#32 ||| bit32 dir.bit <<< 27 ||| bit32 ch.bit <<< 26 ||| bit32 half <<< 25 ||| off.setWidth 32, none, .ok, w, false⟩]
      portH := ⟨s.portH.pos + 1, s.portH.stream.drop 1⟩ }) ∧
  (∀ (s : State) (dir : Dir) (ch : Channel) (half : Bool) (off : BitVec 16),
    off.toNat < s.cfg.ns → s.state = .idle → s.bufWord dir ch half off = none →
    ∃ d : Word, d.toNat < 2 ^ (8 * s.cfg.bps.bytes) ∧
      exec (.bufrd dir ch half off) s = .next { s with
        draws := s.draws + 1
        hist := s.hist ++ [.command ⟨.host,
          0x70000000#32 ||| bit32 dir.bit <<< 27 ||| bit32 ch.bit <<< 26 ||| bit32 half <<< 25 ||| off.setWidth 32, none, .ok, d, true⟩]
        portH := ⟨s.portH.pos + 1, s.portH.stream.drop 1⟩ }) ∧
  (∀ (s : State) (dir : Dir) (ch : Channel) (half : Bool) (off : BitVec 16), s.cfg.ns ≤ off.toNat →
    exec (.bufrd dir ch half off) s = .next { s with
      hist := s.hist ++ [.command ⟨.host,
        0x70000000#32 ||| bit32 dir.bit <<< 27 ||| bit32 ch.bit <<< 26 ||| bit32 half <<< 25 ||| off.setWidth 32, none, .illegal, 0#32, false⟩]
      portH := ⟨s.portH.pos + 1, s.portH.stream.drop 1⟩ }) ∧
  (∀ (s : State) (dir : Dir) (ch : Channel) (half : Bool) (off : BitVec 16), off.toNat < s.cfg.ns → s.state ≠ .idle →
    exec (.bufrd dir ch half off) s = .next { s with
      hist := s.hist ++ [.command ⟨.host,
        0x70000000#32 ||| bit32 dir.bit <<< 27 ||| bit32 ch.bit <<< 26 ||| bit32 half <<< 25 ||| off.setWidth 32, none, .invalidState, 0#32, false⟩]
      portH := ⟨s.portH.pos + 1, s.portH.stream.drop 1⟩ }) ∧
  ReservedBitIllegal .host 0x70000000#32 0xF1FF0000#32

/-! ## Memory -/

/-- 20_memory.md R51: the flat map, its range, that no two words share an address, and where the two directions begin. -/
def Obligations.FlatAddressesAreDistinctAndInRange : Prop :=
  ∀ c : Config,
    (∀ (dir : Dir) (ch : Channel) (half : Bool) (off : BitVec 16), off.toNat < c.ns →
      flatAddress c dir ch half off = ((dir.bit.toNat * 2 + ch.bit.toNat) * 2 + half.toNat) * c.ns + off.toNat ∧
      flatAddress c dir ch half off ≤ 8 * c.ns - 1) ∧
    (∀ (dir dir' : Dir) (ch ch' : Channel) (half half' : Bool) (off off' : BitVec 16),
      off.toNat < c.ns → off'.toNat < c.ns → flatAddress c dir ch half off = flatAddress c dir' ch' half' off' →
      dir = dir' ∧ ch = ch' ∧ half = half' ∧ off = off') ∧
    (∀ a, a ≤ 8 * c.ns - 1 → ∃ dir ch half, ∃ off : BitVec 16, off.toNat < c.ns ∧ flatAddress c dir ch half off = a) ∧
    flatAddress c .input .left false 0#16 = 0 ∧
    flatAddress c .output .left false 0#16 = 4 * c.ns

/-- Every step keeps BUF in its canonical form, inside its address range, and every listed value an SW-bit value (20_memory.md R50, R55). -/
def Obligations.StepKeepsBufWellFormed : Prop :=
  ∀ s t : State, BufWellFormed s → step s = .next t → BufWellFormed t

/-- 20_memory.md R52 and R53: a step changes a word of BUF only as the engine writing an input word of the
half it may access, or the consumer writing an output word of the half it may access. -/
def Obligations.OnlyOwnersWriteTheirHalf : Prop :=
  ∀ s t : State, step s = .next t → ∀ a, t.buf.get a ≠ s.buf.get a →
    (∃ ch half off, engineMayAccess s half ∧ off.toNat < s.cfg.ns ∧ a = flatAddress s.cfg .input ch half off) ∨
    (∃ ch half off, consumerMayAccess s half ∧ off.toNat < s.cfg.ns ∧ a = flatAddress s.cfg .output ch half off)

/-- 20_memory.md R62: the halves the engine and the consumer may access differ, and while the host may read neither may access any. -/
def Obligations.OwnersNeverShareAHalf : Prop :=
  ∀ s : State, Coherent s →
    (∀ h h', engineMayAccess s h → consumerMayAccess s h' → h ≠ h') ∧
    (hostMayRead s → ∀ h, ¬ engineMayAccess s h ∧ ¬ consumerMayAccess s h)

/-- 20_memory.md R66: in Idle no word of BUF changes and no word becomes defined or undefined, whatever step is taken. -/
def Obligations.DumpIsStableInIdle : Prop :=
  ∀ s t : State, Coherent s → s.state = .idle → step s = .next t →
    s.engEn = false ∧ s.held.valid = false ∧ t.buf = s.buf

/-! ## The invariants of 10_state.md R40 -/

/-- Every step keeps the invariants of R40 with their inductive strengthening. -/
def Obligations.StepKeepsCoherence : Prop :=
  ∀ s t : State, Coherent s → step s = .next t → Coherent t

/-- 10_state.md R40: the eight invariants hold in every state reachable from reset. R40 says so of FAULTS empty; that they hold with
FAULTS non-empty too rests on what the model lets a run do after a fault (log 5). -/
def Obligations.ReachableStatesMeetTheInvariants : Prop :=
  ∀ (c : Config) (s : State), Reachable c s → InvariantsR40 s

/-! ## Whole-machine rules -/

/-- 10_state.md R24: STATE moves only along the table's rows, each with its command and condition. -/
def Obligations.StateMovesOnlyAlongTheTable : Prop :=
  ∀ s t : State, Coherent s → step s = .next t → t.state ≠ s.state →
    (s.state = .idle ∧ s.initd = true ∧ t.state = .streaming ∧
      t.hist.getLast? = some (.command ⟨.host, 0x20000000#32, none, .ok, 0#32, false⟩)) ∨
    (s.state = .streaming ∧ t.state = .stopRequested ∧
      t.hist.getLast? = some (.command ⟨.host, 0x30000000#32, none, .ok, 0#32, false⟩)) ∨
    (s.state = .stopRequested ∧ s.stopArm = true ∧ s.engEn = true ∧ t.state = .draining ∧
      ∃ tc, t.hist.getLast? = some (.command ⟨.engine, 0xC0000000#32 ||| bit32 tc, none, .ok, 1#32, false⟩)) ∨
    ((s.state = .stopRequested ∨ s.state = .draining) ∧ s.drainDone = true ∧ t.state = .idle ∧
      ∃ tmo : BitVec 24, t.hist.getLast? = some (.command ⟨.host, 0x40000000#32 ||| tmo.setWidth 32, none, .ok, 0#32, false⟩))

/-- 10_state.md R25: only an applied EVT, which sets it to its TC, and INIT, which sets it to 1, write BUFIDX. -/
def Obligations.OnlyEventsAndInitWriteBufidx : Prop :=
  ∀ s t : State, step s = .next t → t.bufIdx ≠ s.bufIdx →
    (s.engEn = true ∧
      t.hist.getLast? = some (.command ⟨.engine, 0xC0000000#32 ||| bit32 t.bufIdx, none, .ok, 1#32, false⟩)) ∨
    (s.initd = false ∧ t.initd = true ∧ t.bufIdx = true ∧
      t.hist.getLast? = some (.command ⟨.host, 0x10000000#32, none, .ok, 0#32, false⟩))

/-- 43_controller.md R158: RATE and SIZE change only in Idle, by a RECONF. -/
def Obligations.ParametersAreFrozenOutsideIdle : Prop :=
  ∀ s t : State, step s = .next t → t.rate ≠ s.rate ∨ t.size ≠ s.size →
    s.state = .idle ∧ t.state = .idle ∧
      t.hist.getLast? = some (.command ⟨.host,
        0x50000000#32 ||| t.size.setWidth 32 <<< 20 ||| t.rate.setWidth 32, none, .ok, 0#32, false⟩)

/-- 43_controller.md R152: ENG_EN is cleared only by an applied EVT, with the stop armed, and in that step the final block is posted. -/
def Obligations.EngineStopsOnlyAtABoundary : Prop :=
  ∀ s t : State, step s = .next t → s.engEn = true → t.engEn = false →
    s.stopArm = true ∧ t.state = .draining ∧ t.slot = ⟨true, t.bufIdx, true⟩ ∧
      t.hist.getLast? = some (.command ⟨.engine, 0xC0000000#32 ||| bit32 t.bufIdx, none, .ok, 1#32, false⟩)

/-- 40_engine.md R107 (2): after INIT and while the engine is disarmed, no step changes BUFIDX, posts, or marks an overrun; only
a START in Idle arms it again. -/
def Obligations.IndexIsFrozenWhileDisarmed : Prop :=
  ∀ s t : State, s.initd = true → s.engEn = false → step s = .next t →
    t.bufIdx = s.bufIdx ∧ (t.slot.full = true → t.slot = s.slot) ∧
    (t.held.ovr = true → s.held.ovr = true) ∧
    (t.engEn = true → s.state = .idle ∧ t.state = .streaming)

/-- 41_ready_signal.md R125: a block is delivered only out of a full SLOT, its index is the one of the latest applied EVT
(BUFIDX, in a coherent state), and the delivery empties the SLOT. -/
def Obligations.TakeDeliversTheLatestPost : Prop :=
  ∀ s t : State, Coherent s → step s = .next t → s.held.valid = false → t.held.valid = true →
    s.slot.full = true ∧ t.slot.full = false ∧ t.held.idx = s.bufIdx ∧ t.held.final = s.slot.final ∧
      ∃ tmo : BitVec 24, t.hist.getLast? = some (.command ⟨.consumer, 0x80000000#32 ||| tmo.setWidth 32, none, .ok,
        bit32 s.slot.final <<< 1 ||| bit32 s.bufIdx, false⟩)

/-- 60_exceptions.md R191: access is by port. A command of another port never posts, takes, releases, or moves STATE, but for
the halt of an EVT. -/
def Obligations.EachPortHasItsOwnPowers : Prop :=
  ∀ (i : Instr) (s t : State), exec i s = .next t →
    (i.port ≠ .engine → t.slot.full = true → t.slot = s.slot) ∧
    (i.port ≠ .consumer → t.held.valid = s.held.valid) ∧
    (i.port ≠ .host → t.state ≠ s.state → i.port = .engine ∧ s.engEn = true ∧ s.stopArm = true ∧ t.state = .draining)

/-! ## Errors, model faults and the event history -/

/-- 60_exceptions.md R183: INVALID_STATE is the response, with DATA 0 and no other effect, exactly in the table's cases (after the
range check), and never elsewhere. -/
def Obligations.InvalidStateExactlyAsTheTable : Prop :=
  ∀ (i : Instr) (s : State), i.wf s.cfg = true →
    (refusedInState i s = true →
      ∃ t, exec i s = .next t ∧
        t.hist = s.hist ++ [.command ⟨i.port, i.cw, i.dw, .invalidState, 0#32, false⟩] ∧
        { t with hist := s.hist, portH := s.portH, portC := s.portC, portE := s.portE } = s) ∧
    (refusedInState i s = false →
      ∀ t l, exec i s = .next t → t.hist = s.hist ++ l → ∀ r, HistEntry.command r ∈ l → r.sts ≠ .invalidState)

/-- 60_exceptions.md R186: a command records exactly the model fault of the table (MF3 before MF2, after the ILLEGAL and
INVALID_STATE checks), and that step has no further effect (R187); every other command leaves FAULTS as it is. -/
def Obligations.ModelFaultsExactlyAsTheTable : Prop :=
  ∀ (i : Instr) (s : State),
    (∀ f, faultOf i s = some f → exec i s = .next { s with faults := s.faults.insert f }) ∧
    (faultOf i s = none → ∀ t, exec i s = .next t → t.faults = s.faults)

/-- 10_state.md R36: FAULTS starts empty, no step removes a fault from it, and a state with FAULTS non-empty is no successful end. -/
def Obligations.FaultsAreNeverCleared : Prop :=
  (∀ c, (State.resetOf c).FaultFree) ∧
  (∀ s t : State, step s = .next t →
    (s.faults.mf1 = true → t.faults.mf1 = true) ∧ (s.faults.mf2 = true → t.faults.mf2 = true) ∧
    (s.faults.mf3 = true → t.faults.mf3 = true)) ∧
  (∀ (env : Environment) (s : State), ¬ s.FaultFree → ¬ SuccessfulEnd env s)

/-- 60_exceptions.md R182: only TAKE and WDRAIN time out, and only as a poll or at the timeout step of a finite wait, while what
they wait for is absent; DATA is 0 and nothing of the PPBA changes but PEND. -/
def Obligations.TimeoutOnlyWhileTheConditionIsFalse : Prop :=
  ∀ (s t : State) (r : CommandRecord),
    step s = .next t → t.hist = s.hist ++ [.command r] → r.sts = .timeout →
    r.data = 0#32 ∧
    ((r.port = .consumer ∧ (r.cw.extractLsb' 28 4).toNat = 0x8 ∧ s.slot.full = false ∧
        ((s.pendC = none ∧ r.cw.extractLsb' 0 24 = 0#24) ∨
         (s.pendC = some (r.cw.extractLsb' 0 24) ∧
           0 < (r.cw.extractLsb' 0 24).toNat ∧ (r.cw.extractLsb' 0 24).toNat < 0xFFFFFF)) ∧
        t.pendC = none ∧ t.pendH = s.pendH) ∨
     (r.port = .host ∧ (r.cw.extractLsb' 28 4).toNat = 0x4 ∧ s.drainDone = false ∧
        ((s.pendH = none ∧ r.cw.extractLsb' 0 24 = 0#24) ∨
         (s.pendH = some (r.cw.extractLsb' 0 24) ∧
           0 < (r.cw.extractLsb' 0 24).toNat ∧ (r.cw.extractLsb' 0 24).toNat < 0xFFFFFF)) ∧
        t.pendH = none ∧ t.pendC = s.pendC)) ∧
    (t.state = s.state ∧ t.bufIdx = s.bufIdx ∧ t.slot = s.slot ∧ t.held = s.held ∧ t.engEn = s.engEn ∧ t.stopArm = s.stopArm ∧
     t.drainDone = s.drainDone ∧ t.initd = s.initd ∧ t.rate = s.rate ∧ t.size = s.size ∧ t.xportEn = s.xportEn ∧
     t.buf = s.buf ∧ t.faults = s.faults)

/-- An error response has DATA 0 and its command has changed no element of the PPBA and emitted no event (00_scope.md R13,
30_encoding.md R84, 60_exceptions.md R180). -/
def Obligations.ErrorResponsesChangeNothing : Prop :=
  ∀ (i : Instr) (s t : State) (l : List HistEntry) (r : CommandRecord),
    exec i s = .next t → t.hist = s.hist ++ l ++ [.command r] → r.sts ≠ .ok →
    r.data = 0#32 ∧ l = [] ∧
      { t with hist := s.hist, portH := s.portH, portC := s.portC, portE := s.portE } = s

/-- HIST is append-only, and every step keeps each port's position equal to the number of its records in HIST: one record per
completed command, and the position advances by one with it (10_state.md R21, R37, 30_encoding.md R85). -/
def Obligations.OneRecordPerCompletedCommand : Prop :=
  ∀ s t : State, step s = .next t →
    (∃ l, t.hist = s.hist ++ l) ∧ (PositionsCountRecords s → PositionsCountRecords t)

/-- No step changes the open parameters (00_scope.md R9), clears INITD (10_state.md R31) or clears XPORT_EN (R33). -/
def Obligations.OnlyResetClearsInitdAndXportEn : Prop :=
  ∀ s t : State, step s = .next t →
    t.cfg = s.cfg ∧ (s.initd = true → t.initd = true) ∧ (s.xportEn = true → t.xportEn = true)

/-- FAULTS and the ghost HELD.OVR are invisible: a command that raises no model fault answers the same, and leaves the same
elements, whatever they are (10_state.md R27, R36, R38). -/
def Obligations.GhostStateIsInvisible : Prop :=
  ∀ (i : Instr) (s t : State) (fs : Faults) (ovr : Bool),
    faultOf i s = none → faultOf i { s with faults := fs, held := { s.held with ovr := ovr } } = none →
    exec i s = .next t →
    ∃ t', exec i { s with faults := fs, held := { s.held with ovr := ovr } } = .next t' ∧
      { t' with faults := t.faults, held := { t'.held with ovr := t.held.ovr } } = t

/-! ## The reference engine -/

/-- 40_engine.md R108: the reference engine never raises MF2 or MF3, and its half stays the engine's half. -/
def Obligations.ReferenceEngineKeepsToItsHalf : Prop :=
  ∀ s t : State, ReferenceEngineOnly s → step s = .next t →
    ReferenceEngineOnly t ∧ t.faults.mf2 = s.faults.mf2 ∧ t.faults.mf3 = s.faults.mf3

/-- 41_ready_signal.md R127 with 95_test_vectors.md W1: under the reference engine every completion event is applied and posts
the other index than the one before it, so the posted indices alternate. -/
def Obligations.ReferenceEnginePostsAlternate : Prop :=
  ∀ (s t : State) (m : EngineMove), ReferenceEngineOnly s → s.initd = true → turnEnabled (.engine m) s = true →
    runTurn (.engine m) s = .next t →
    (m = .event → t.bufIdx = !s.bufIdx ∧ t.slot = ⟨true, !s.bufIdx, s.stopArm⟩ ∧
      t.hist = s.hist ++ [.command ⟨.engine, 0xC0000000#32 ||| bit32 (!s.bufIdx), none, .ok, 1#32, false⟩]) ∧
    (m ≠ .event → t.bufIdx = s.bufIdx ∧ t.slot = s.slot)

/-- 42_processor.md R138: while the reference consumer alone drives port C, every command it completes answers OK, and MF1 is
recorded only after a completion event overran the block it holds. -/
def Obligations.ReferenceConsumerKeepsTheHandshake : Prop :=
  ∀ s t : State, ReferenceConsumerOnly s → step s = .next t →
    ReferenceConsumerOnly t ∧
    (∀ l, t.hist = s.hist ++ l → ∀ r, HistEntry.command r ∈ l → r.port = .consumer → r.sts = .ok) ∧
    (t.faults.mf1 ≠ s.faults.mf1 → s.held.valid = true ∧ s.held.ovr = true)

/-- 40_engine.md R108 and 42_processor.md R138: every step keeps the reference agents inside their loops. The engine never passes
the end of its period, the consumer reads each word of a block at most once, and writes the words in the order of its write loop
(which channel is first is open, log 11; its place goes on even where an access faults, log 11). -/
def Obligations.StepKeepsAgentsWithinTheirLoops : Prop :=
  ∀ s t : State, AgentsWithinTheirLoops s → step s = .next t → AgentsWithinTheirLoops t

/-! ## The end of a run -/

/-- How a stop drains (40_engine.md R104, 41_ready_signal.md R122, 42_processor.md R135, 43_controller.md R156): with a stop
requested and no block held, the next completion event, the consumer's TAKE and DONE of the block it posts, and the finish step
of an outstanding WDRAIN lead to Idle with the engine off, and the final block is the one the event posted. -/
def Obligations.DrainCompletesThroughTheHandshake : Prop :=
  ∀ (s : State) (tc : Bool) (tmoC tmoH : BitVec 24),
    Coherent s → s.state = .stopRequested → s.held.valid = false → s.pendH = some tmoH →
    ∃ s1 s2 s3 s4,
      exec (.evt tc) s = .next s1 ∧ s1.state = .draining ∧ s1.engEn = false ∧ s1.slot = ⟨true, tc, true⟩ ∧
      exec (.take tmoC) s1 = .next s2 ∧ s2.held = ⟨true, tc, true, false⟩ ∧
      exec .done s2 = .next s3 ∧ s3.drainDone = true ∧
      runTurn .finish s3 = .next s4 ∧ s4.state = .idle ∧ s4.drainDone = false ∧ s4.pendH = none ∧
      s4.engEn = false ∧ s4.bufIdx = tc ∧ s4.buf = s.buf ∧ s4.faults = s.faults

/-- 70_reset_and_hazards.md R222: at a successful end no agent of the environment can take a step (log 20). -/
def Obligations.NoStepIsEnabledAtASuccessfulEnd : Prop :=
  ∀ (env : Environment) (s : State), SuccessfulEnd env s → ∀ u : Turn, env.includes u = true → turnEnabled u s = false

/-- 70_reset_and_hazards.md R222: a failed end is a fault, or an agent stuck on a wait that nothing will lift: an indefinite TAKE with
SLOT empty, an indefinite WDRAIN with DRAIN_DONE = 0, or a port whose stream ends inside a two-word command (the model's choice, log 9). -/
def Obligations.FailedEndIsAFaultOrAWaitNothingLifts : Prop :=
  ∀ (env : Environment) (s : State), Coherent s → AgentsWithinTheirLoops s → FailedEnd env s →
    ¬ s.FaultFree ∨
    (s.pendC = some 0xFFFFFF#24 ∧ s.slot.full = false) ∨
    (s.pendH = some 0xFFFFFF#24 ∧ s.drainDone = false) ∨
    ∃ p cw, (s.port p).stream = [cw] ∧ ((cw.extractLsb' 28 4).toNat = 0xB ∨ (cw.extractLsb' 28 4).toNat = 0xD)
end

