-- ==== Sys2Proof/Laws/State.lean ====
section
/-! SUPPORT. One lemma per field per shared operation: what the operation leaves alone, and what it writes.
Later proofs cite these instead of unfolding a record update. -/

namespace Sys2Proof.Machine

/-! ### setPort -/

@[simp] theorem setPort_cfg (s : State) (p : Port) (q : PortState) : (s.setPort p q).cfg = s.cfg := by cases p <;> rfl
@[simp] theorem setPort_state (s : State) (p : Port) (q : PortState) : (s.setPort p q).state = s.state := by cases p <;> rfl
@[simp] theorem setPort_bufIdx (s : State) (p : Port) (q : PortState) : (s.setPort p q).bufIdx = s.bufIdx := by cases p <;> rfl
@[simp] theorem setPort_slot (s : State) (p : Port) (q : PortState) : (s.setPort p q).slot = s.slot := by cases p <;> rfl
@[simp] theorem setPort_held (s : State) (p : Port) (q : PortState) : (s.setPort p q).held = s.held := by cases p <;> rfl
@[simp] theorem setPort_engEn (s : State) (p : Port) (q : PortState) : (s.setPort p q).engEn = s.engEn := by cases p <;> rfl
@[simp] theorem setPort_stopArm (s : State) (p : Port) (q : PortState) : (s.setPort p q).stopArm = s.stopArm := by cases p <;> rfl
@[simp] theorem setPort_drainDone (s : State) (p : Port) (q : PortState) : (s.setPort p q).drainDone = s.drainDone := by cases p <;> rfl
@[simp] theorem setPort_initd (s : State) (p : Port) (q : PortState) : (s.setPort p q).initd = s.initd := by cases p <;> rfl
@[simp] theorem setPort_rate (s : State) (p : Port) (q : PortState) : (s.setPort p q).rate = s.rate := by cases p <;> rfl
@[simp] theorem setPort_size (s : State) (p : Port) (q : PortState) : (s.setPort p q).size = s.size := by cases p <;> rfl
@[simp] theorem setPort_xportEn (s : State) (p : Port) (q : PortState) : (s.setPort p q).xportEn = s.xportEn := by cases p <;> rfl
@[simp] theorem setPort_buf (s : State) (p : Port) (q : PortState) : (s.setPort p q).buf = s.buf := by cases p <;> rfl
@[simp] theorem setPort_pendH (s : State) (p : Port) (q : PortState) : (s.setPort p q).pendH = s.pendH := by cases p <;> rfl
@[simp] theorem setPort_pendC (s : State) (p : Port) (q : PortState) : (s.setPort p q).pendC = s.pendC := by cases p <;> rfl
@[simp] theorem setPort_faults (s : State) (p : Port) (q : PortState) : (s.setPort p q).faults = s.faults := by cases p <;> rfl
@[simp] theorem setPort_hist (s : State) (p : Port) (q : PortState) : (s.setPort p q).hist = s.hist := by cases p <;> rfl
@[simp] theorem setPort_draws (s : State) (p : Port) (q : PortState) : (s.setPort p q).draws = s.draws := by cases p <;> rfl
@[simp] theorem setPort_sched (s : State) (p : Port) (q : PortState) : (s.setPort p q).sched = s.sched := by cases p <;> rfl
@[simp] theorem setPort_eng (s : State) (p : Port) (q : PortState) : (s.setPort p q).eng = s.eng := by cases p <;> rfl
@[simp] theorem setPort_cons (s : State) (p : Port) (q : PortState) : (s.setPort p q).cons = s.cons := by cases p <;> rfl

@[simp] theorem setPort_port_same (s : State) (p : Port) (q : PortState) : (s.setPort p q).port p = q := by cases p <;> rfl

theorem setPort_port_other (s : State) {p p' : Port} (q : PortState) (h : p' ≠ p) : (s.setPort p q).port p' = s.port p' := by
  cases p <;> cases p' <;> first | rfl | exact absurd rfl h

@[simp] theorem setPort_pending (s : State) (p p' : Port) (q : PortState) : (s.setPort p q).pending p' = s.pending p' := by
  cases p <;> cases p' <;> rfl

/-! ### setSched -/

@[simp] theorem setSched_cfg (s : State) (ts : List Turn) : (s.setSched ts).cfg = s.cfg := rfl
@[simp] theorem setSched_state (s : State) (ts : List Turn) : (s.setSched ts).state = s.state := rfl
@[simp] theorem setSched_bufIdx (s : State) (ts : List Turn) : (s.setSched ts).bufIdx = s.bufIdx := rfl
@[simp] theorem setSched_slot (s : State) (ts : List Turn) : (s.setSched ts).slot = s.slot := rfl
@[simp] theorem setSched_held (s : State) (ts : List Turn) : (s.setSched ts).held = s.held := rfl
@[simp] theorem setSched_engEn (s : State) (ts : List Turn) : (s.setSched ts).engEn = s.engEn := rfl
@[simp] theorem setSched_stopArm (s : State) (ts : List Turn) : (s.setSched ts).stopArm = s.stopArm := rfl
@[simp] theorem setSched_drainDone (s : State) (ts : List Turn) : (s.setSched ts).drainDone = s.drainDone := rfl
@[simp] theorem setSched_initd (s : State) (ts : List Turn) : (s.setSched ts).initd = s.initd := rfl
@[simp] theorem setSched_rate (s : State) (ts : List Turn) : (s.setSched ts).rate = s.rate := rfl
@[simp] theorem setSched_size (s : State) (ts : List Turn) : (s.setSched ts).size = s.size := rfl
@[simp] theorem setSched_xportEn (s : State) (ts : List Turn) : (s.setSched ts).xportEn = s.xportEn := rfl
@[simp] theorem setSched_buf (s : State) (ts : List Turn) : (s.setSched ts).buf = s.buf := rfl
@[simp] theorem setSched_pendH (s : State) (ts : List Turn) : (s.setSched ts).pendH = s.pendH := rfl
@[simp] theorem setSched_pendC (s : State) (ts : List Turn) : (s.setSched ts).pendC = s.pendC := rfl
@[simp] theorem setSched_faults (s : State) (ts : List Turn) : (s.setSched ts).faults = s.faults := rfl
@[simp] theorem setSched_hist (s : State) (ts : List Turn) : (s.setSched ts).hist = s.hist := rfl
@[simp] theorem setSched_portH (s : State) (ts : List Turn) : (s.setSched ts).portH = s.portH := rfl
@[simp] theorem setSched_portC (s : State) (ts : List Turn) : (s.setSched ts).portC = s.portC := rfl
@[simp] theorem setSched_portE (s : State) (ts : List Turn) : (s.setSched ts).portE = s.portE := rfl
@[simp] theorem setSched_draws (s : State) (ts : List Turn) : (s.setSched ts).draws = s.draws := rfl
@[simp] theorem setSched_eng (s : State) (ts : List Turn) : (s.setSched ts).eng = s.eng := rfl
@[simp] theorem setSched_cons (s : State) (ts : List Turn) : (s.setSched ts).cons = s.cons := rfl

@[simp] theorem setSched_sched (s : State) (ts : List Turn) : (s.setSched ts).sched = ts := rfl

@[simp] theorem setSched_port (s : State) (ts : List Turn) (p : Port) : (s.setSched ts).port p = s.port p := by cases p <;> rfl

@[simp] theorem setSched_pending (s : State) (ts : List Turn) (p : Port) : (s.setSched ts).pending p = s.pending p := by cases p <;> rfl

/-! ### setEng -/

@[simp] theorem setEng_cfg (s : State) (a : RingAgent) : (s.setEng a).cfg = s.cfg := rfl
@[simp] theorem setEng_state (s : State) (a : RingAgent) : (s.setEng a).state = s.state := rfl
@[simp] theorem setEng_bufIdx (s : State) (a : RingAgent) : (s.setEng a).bufIdx = s.bufIdx := rfl
@[simp] theorem setEng_slot (s : State) (a : RingAgent) : (s.setEng a).slot = s.slot := rfl
@[simp] theorem setEng_held (s : State) (a : RingAgent) : (s.setEng a).held = s.held := rfl
@[simp] theorem setEng_engEn (s : State) (a : RingAgent) : (s.setEng a).engEn = s.engEn := rfl
@[simp] theorem setEng_stopArm (s : State) (a : RingAgent) : (s.setEng a).stopArm = s.stopArm := rfl
@[simp] theorem setEng_drainDone (s : State) (a : RingAgent) : (s.setEng a).drainDone = s.drainDone := rfl
@[simp] theorem setEng_initd (s : State) (a : RingAgent) : (s.setEng a).initd = s.initd := rfl
@[simp] theorem setEng_rate (s : State) (a : RingAgent) : (s.setEng a).rate = s.rate := rfl
@[simp] theorem setEng_size (s : State) (a : RingAgent) : (s.setEng a).size = s.size := rfl
@[simp] theorem setEng_xportEn (s : State) (a : RingAgent) : (s.setEng a).xportEn = s.xportEn := rfl
@[simp] theorem setEng_buf (s : State) (a : RingAgent) : (s.setEng a).buf = s.buf := rfl
@[simp] theorem setEng_pendH (s : State) (a : RingAgent) : (s.setEng a).pendH = s.pendH := rfl
@[simp] theorem setEng_pendC (s : State) (a : RingAgent) : (s.setEng a).pendC = s.pendC := rfl
@[simp] theorem setEng_faults (s : State) (a : RingAgent) : (s.setEng a).faults = s.faults := rfl
@[simp] theorem setEng_hist (s : State) (a : RingAgent) : (s.setEng a).hist = s.hist := rfl
@[simp] theorem setEng_portH (s : State) (a : RingAgent) : (s.setEng a).portH = s.portH := rfl
@[simp] theorem setEng_portC (s : State) (a : RingAgent) : (s.setEng a).portC = s.portC := rfl
@[simp] theorem setEng_portE (s : State) (a : RingAgent) : (s.setEng a).portE = s.portE := rfl
@[simp] theorem setEng_draws (s : State) (a : RingAgent) : (s.setEng a).draws = s.draws := rfl
@[simp] theorem setEng_sched (s : State) (a : RingAgent) : (s.setEng a).sched = s.sched := rfl
@[simp] theorem setEng_cons (s : State) (a : RingAgent) : (s.setEng a).cons = s.cons := rfl

@[simp] theorem setEng_eng (s : State) (a : RingAgent) : (s.setEng a).eng = a := rfl

@[simp] theorem setEng_port (s : State) (a : RingAgent) (p : Port) : (s.setEng a).port p = s.port p := by cases p <;> rfl

@[simp] theorem setEng_pending (s : State) (a : RingAgent) (p : Port) : (s.setEng a).pending p = s.pending p := by cases p <;> rfl

/-! ### setCons -/

@[simp] theorem setCons_cfg (s : State) (a : LoopAgent) : (s.setCons a).cfg = s.cfg := rfl
@[simp] theorem setCons_state (s : State) (a : LoopAgent) : (s.setCons a).state = s.state := rfl
@[simp] theorem setCons_bufIdx (s : State) (a : LoopAgent) : (s.setCons a).bufIdx = s.bufIdx := rfl
@[simp] theorem setCons_slot (s : State) (a : LoopAgent) : (s.setCons a).slot = s.slot := rfl
@[simp] theorem setCons_held (s : State) (a : LoopAgent) : (s.setCons a).held = s.held := rfl
@[simp] theorem setCons_engEn (s : State) (a : LoopAgent) : (s.setCons a).engEn = s.engEn := rfl
@[simp] theorem setCons_stopArm (s : State) (a : LoopAgent) : (s.setCons a).stopArm = s.stopArm := rfl
@[simp] theorem setCons_drainDone (s : State) (a : LoopAgent) : (s.setCons a).drainDone = s.drainDone := rfl
@[simp] theorem setCons_initd (s : State) (a : LoopAgent) : (s.setCons a).initd = s.initd := rfl
@[simp] theorem setCons_rate (s : State) (a : LoopAgent) : (s.setCons a).rate = s.rate := rfl
@[simp] theorem setCons_size (s : State) (a : LoopAgent) : (s.setCons a).size = s.size := rfl
@[simp] theorem setCons_xportEn (s : State) (a : LoopAgent) : (s.setCons a).xportEn = s.xportEn := rfl
@[simp] theorem setCons_buf (s : State) (a : LoopAgent) : (s.setCons a).buf = s.buf := rfl
@[simp] theorem setCons_pendH (s : State) (a : LoopAgent) : (s.setCons a).pendH = s.pendH := rfl
@[simp] theorem setCons_pendC (s : State) (a : LoopAgent) : (s.setCons a).pendC = s.pendC := rfl
@[simp] theorem setCons_faults (s : State) (a : LoopAgent) : (s.setCons a).faults = s.faults := rfl
@[simp] theorem setCons_hist (s : State) (a : LoopAgent) : (s.setCons a).hist = s.hist := rfl
@[simp] theorem setCons_portH (s : State) (a : LoopAgent) : (s.setCons a).portH = s.portH := rfl
@[simp] theorem setCons_portC (s : State) (a : LoopAgent) : (s.setCons a).portC = s.portC := rfl
@[simp] theorem setCons_portE (s : State) (a : LoopAgent) : (s.setCons a).portE = s.portE := rfl
@[simp] theorem setCons_draws (s : State) (a : LoopAgent) : (s.setCons a).draws = s.draws := rfl
@[simp] theorem setCons_sched (s : State) (a : LoopAgent) : (s.setCons a).sched = s.sched := rfl
@[simp] theorem setCons_eng (s : State) (a : LoopAgent) : (s.setCons a).eng = s.eng := rfl

@[simp] theorem setCons_cons (s : State) (a : LoopAgent) : (s.setCons a).cons = a := rfl

@[simp] theorem setCons_port (s : State) (a : LoopAgent) (p : Port) : (s.setCons a).port p = s.port p := by cases p <;> rfl

@[simp] theorem setCons_pending (s : State) (a : LoopAgent) (p : Port) : (s.setCons a).pending p = s.pending p := by cases p <;> rfl

/-! ### complete -/

@[simp] theorem complete_cfg (p : Port) (cw : Word) (dw : Option Word) (sts : Status) (data : Word) (drawn : Bool) (s : State) : (complete p cw dw sts data drawn s).cfg = s.cfg := by cases p <;> rfl
@[simp] theorem complete_state (p : Port) (cw : Word) (dw : Option Word) (sts : Status) (data : Word) (drawn : Bool) (s : State) : (complete p cw dw sts data drawn s).state = s.state := by cases p <;> rfl
@[simp] theorem complete_bufIdx (p : Port) (cw : Word) (dw : Option Word) (sts : Status) (data : Word) (drawn : Bool) (s : State) : (complete p cw dw sts data drawn s).bufIdx = s.bufIdx := by cases p <;> rfl
@[simp] theorem complete_slot (p : Port) (cw : Word) (dw : Option Word) (sts : Status) (data : Word) (drawn : Bool) (s : State) : (complete p cw dw sts data drawn s).slot = s.slot := by cases p <;> rfl
@[simp] theorem complete_held (p : Port) (cw : Word) (dw : Option Word) (sts : Status) (data : Word) (drawn : Bool) (s : State) : (complete p cw dw sts data drawn s).held = s.held := by cases p <;> rfl
@[simp] theorem complete_engEn (p : Port) (cw : Word) (dw : Option Word) (sts : Status) (data : Word) (drawn : Bool) (s : State) : (complete p cw dw sts data drawn s).engEn = s.engEn := by cases p <;> rfl
@[simp] theorem complete_stopArm (p : Port) (cw : Word) (dw : Option Word) (sts : Status) (data : Word) (drawn : Bool) (s : State) : (complete p cw dw sts data drawn s).stopArm = s.stopArm := by cases p <;> rfl
@[simp] theorem complete_drainDone (p : Port) (cw : Word) (dw : Option Word) (sts : Status) (data : Word) (drawn : Bool) (s : State) : (complete p cw dw sts data drawn s).drainDone = s.drainDone := by cases p <;> rfl
@[simp] theorem complete_initd (p : Port) (cw : Word) (dw : Option Word) (sts : Status) (data : Word) (drawn : Bool) (s : State) : (complete p cw dw sts data drawn s).initd = s.initd := by cases p <;> rfl
@[simp] theorem complete_rate (p : Port) (cw : Word) (dw : Option Word) (sts : Status) (data : Word) (drawn : Bool) (s : State) : (complete p cw dw sts data drawn s).rate = s.rate := by cases p <;> rfl
@[simp] theorem complete_size (p : Port) (cw : Word) (dw : Option Word) (sts : Status) (data : Word) (drawn : Bool) (s : State) : (complete p cw dw sts data drawn s).size = s.size := by cases p <;> rfl
@[simp] theorem complete_xportEn (p : Port) (cw : Word) (dw : Option Word) (sts : Status) (data : Word) (drawn : Bool) (s : State) : (complete p cw dw sts data drawn s).xportEn = s.xportEn := by cases p <;> rfl
@[simp] theorem complete_buf (p : Port) (cw : Word) (dw : Option Word) (sts : Status) (data : Word) (drawn : Bool) (s : State) : (complete p cw dw sts data drawn s).buf = s.buf := by cases p <;> rfl
@[simp] theorem complete_pendH (p : Port) (cw : Word) (dw : Option Word) (sts : Status) (data : Word) (drawn : Bool) (s : State) : (complete p cw dw sts data drawn s).pendH = s.pendH := by cases p <;> rfl
@[simp] theorem complete_pendC (p : Port) (cw : Word) (dw : Option Word) (sts : Status) (data : Word) (drawn : Bool) (s : State) : (complete p cw dw sts data drawn s).pendC = s.pendC := by cases p <;> rfl
@[simp] theorem complete_faults (p : Port) (cw : Word) (dw : Option Word) (sts : Status) (data : Word) (drawn : Bool) (s : State) : (complete p cw dw sts data drawn s).faults = s.faults := by cases p <;> rfl
@[simp] theorem complete_draws (p : Port) (cw : Word) (dw : Option Word) (sts : Status) (data : Word) (drawn : Bool) (s : State) : (complete p cw dw sts data drawn s).draws = s.draws := by cases p <;> rfl
@[simp] theorem complete_sched (p : Port) (cw : Word) (dw : Option Word) (sts : Status) (data : Word) (drawn : Bool) (s : State) : (complete p cw dw sts data drawn s).sched = s.sched := by cases p <;> rfl
@[simp] theorem complete_eng (p : Port) (cw : Word) (dw : Option Word) (sts : Status) (data : Word) (drawn : Bool) (s : State) : (complete p cw dw sts data drawn s).eng = s.eng := by cases p <;> rfl
@[simp] theorem complete_cons (p : Port) (cw : Word) (dw : Option Word) (sts : Status) (data : Word) (drawn : Bool) (s : State) : (complete p cw dw sts data drawn s).cons = s.cons := by cases p <;> rfl

@[simp] theorem complete_hist (p : Port) (cw : Word) (dw : Option Word) (sts : Status) (data : Word) (drawn : Bool) (s : State) :
    (complete p cw dw sts data drawn s).hist = s.hist ++ [.command ⟨p, cw, dw, sts, data, drawn⟩] := by cases p <;> rfl

@[simp] theorem complete_port_same (p : Port) (cw : Word) (dw : Option Word) (sts : Status) (data : Word) (drawn : Bool) (s : State) :
    (complete p cw dw sts data drawn s).port p =
      { pos := (s.port p).pos + 1, stream := (s.port p).stream.drop (1 + dw.toList.length) } := by cases p <;> rfl

theorem complete_port_other {p p' : Port} (cw : Word) (dw : Option Word) (sts : Status) (data : Word) (drawn : Bool) (s : State)
    (h : p' ≠ p) : (complete p cw dw sts data drawn s).port p' = s.port p' := by
  cases p <;> cases p' <;> first | rfl | exact absurd rfl h

/-! ### respond -/

@[simp] theorem respond_cfg (i : Instr) (sts : Status) (data : Word) (s : State) : (respond i sts data s).cfg = s.cfg := by simp [respond]
@[simp] theorem respond_state (i : Instr) (sts : Status) (data : Word) (s : State) : (respond i sts data s).state = s.state := by simp [respond]
@[simp] theorem respond_bufIdx (i : Instr) (sts : Status) (data : Word) (s : State) : (respond i sts data s).bufIdx = s.bufIdx := by simp [respond]
@[simp] theorem respond_slot (i : Instr) (sts : Status) (data : Word) (s : State) : (respond i sts data s).slot = s.slot := by simp [respond]
@[simp] theorem respond_held (i : Instr) (sts : Status) (data : Word) (s : State) : (respond i sts data s).held = s.held := by simp [respond]
@[simp] theorem respond_engEn (i : Instr) (sts : Status) (data : Word) (s : State) : (respond i sts data s).engEn = s.engEn := by simp [respond]
@[simp] theorem respond_stopArm (i : Instr) (sts : Status) (data : Word) (s : State) : (respond i sts data s).stopArm = s.stopArm := by simp [respond]
@[simp] theorem respond_drainDone (i : Instr) (sts : Status) (data : Word) (s : State) : (respond i sts data s).drainDone = s.drainDone := by simp [respond]
@[simp] theorem respond_initd (i : Instr) (sts : Status) (data : Word) (s : State) : (respond i sts data s).initd = s.initd := by simp [respond]
@[simp] theorem respond_rate (i : Instr) (sts : Status) (data : Word) (s : State) : (respond i sts data s).rate = s.rate := by simp [respond]
@[simp] theorem respond_size (i : Instr) (sts : Status) (data : Word) (s : State) : (respond i sts data s).size = s.size := by simp [respond]
@[simp] theorem respond_xportEn (i : Instr) (sts : Status) (data : Word) (s : State) : (respond i sts data s).xportEn = s.xportEn := by simp [respond]
@[simp] theorem respond_buf (i : Instr) (sts : Status) (data : Word) (s : State) : (respond i sts data s).buf = s.buf := by simp [respond]
@[simp] theorem respond_pendH (i : Instr) (sts : Status) (data : Word) (s : State) : (respond i sts data s).pendH = s.pendH := by simp [respond]
@[simp] theorem respond_pendC (i : Instr) (sts : Status) (data : Word) (s : State) : (respond i sts data s).pendC = s.pendC := by simp [respond]
@[simp] theorem respond_faults (i : Instr) (sts : Status) (data : Word) (s : State) : (respond i sts data s).faults = s.faults := by simp [respond]
@[simp] theorem respond_draws (i : Instr) (sts : Status) (data : Word) (s : State) : (respond i sts data s).draws = s.draws := by simp [respond]
@[simp] theorem respond_sched (i : Instr) (sts : Status) (data : Word) (s : State) : (respond i sts data s).sched = s.sched := by simp [respond]
@[simp] theorem respond_eng (i : Instr) (sts : Status) (data : Word) (s : State) : (respond i sts data s).eng = s.eng := by simp [respond]
@[simp] theorem respond_cons (i : Instr) (sts : Status) (data : Word) (s : State) : (respond i sts data s).cons = s.cons := by simp [respond]

@[simp] theorem respond_hist (i : Instr) (sts : Status) (data : Word) (s : State) :
    (respond i sts data s).hist = s.hist ++ [.command ⟨i.port, i.cw, i.dw, sts, data, false⟩] := by simp [respond]

@[simp] theorem respond_port_same (i : Instr) (sts : Status) (data : Word) (s : State) :
    (respond i sts data s).port i.port =
      { pos := (s.port i.port).pos + 1, stream := (s.port i.port).stream.drop (1 + i.dw.toList.length) } := by simp [respond]

theorem respond_port_other {p : Port} (i : Instr) (sts : Status) (data : Word) (s : State) (h : p ≠ i.port) :
    (respond i sts data s).port p = s.port p := complete_port_other _ _ _ _ _ _ h

/-! ### emit -/

@[simp] theorem emit_cfg (e : Event) (s : State) : (emit e s).cfg = s.cfg := by cases e <;> rfl
@[simp] theorem emit_state (e : Event) (s : State) : (emit e s).state = s.state := by cases e <;> rfl
@[simp] theorem emit_bufIdx (e : Event) (s : State) : (emit e s).bufIdx = s.bufIdx := by cases e <;> rfl
@[simp] theorem emit_slot (e : Event) (s : State) : (emit e s).slot = s.slot := by cases e <;> rfl
@[simp] theorem emit_held (e : Event) (s : State) : (emit e s).held = s.held := by cases e <;> rfl
@[simp] theorem emit_engEn (e : Event) (s : State) : (emit e s).engEn = s.engEn := by cases e <;> rfl
@[simp] theorem emit_stopArm (e : Event) (s : State) : (emit e s).stopArm = s.stopArm := by cases e <;> rfl
@[simp] theorem emit_drainDone (e : Event) (s : State) : (emit e s).drainDone = s.drainDone := by cases e <;> rfl
@[simp] theorem emit_initd (e : Event) (s : State) : (emit e s).initd = s.initd := by cases e <;> rfl
@[simp] theorem emit_rate (e : Event) (s : State) : (emit e s).rate = s.rate := by cases e <;> rfl
@[simp] theorem emit_size (e : Event) (s : State) : (emit e s).size = s.size := by cases e <;> rfl
@[simp] theorem emit_xportEn (e : Event) (s : State) : (emit e s).xportEn = s.xportEn := by cases e <;> rfl
@[simp] theorem emit_buf (e : Event) (s : State) : (emit e s).buf = s.buf := by cases e <;> rfl
@[simp] theorem emit_pendH (e : Event) (s : State) : (emit e s).pendH = s.pendH := by cases e <;> rfl
@[simp] theorem emit_pendC (e : Event) (s : State) : (emit e s).pendC = s.pendC := by cases e <;> rfl
@[simp] theorem emit_faults (e : Event) (s : State) : (emit e s).faults = s.faults := by cases e <;> rfl
@[simp] theorem emit_portH (e : Event) (s : State) : (emit e s).portH = s.portH := by cases e <;> rfl
@[simp] theorem emit_portC (e : Event) (s : State) : (emit e s).portC = s.portC := by cases e <;> rfl
@[simp] theorem emit_portE (e : Event) (s : State) : (emit e s).portE = s.portE := by cases e <;> rfl
@[simp] theorem emit_draws (e : Event) (s : State) : (emit e s).draws = s.draws := by cases e <;> rfl
@[simp] theorem emit_sched (e : Event) (s : State) : (emit e s).sched = s.sched := by cases e <;> rfl
@[simp] theorem emit_cons (e : Event) (s : State) : (emit e s).cons = s.cons := by cases e <;> rfl

/-! ### raiseFault -/

@[simp] theorem raiseFault_cfg (f : ModelFault) (s : State) : (raiseFault f s).cfg = s.cfg := rfl
@[simp] theorem raiseFault_state (f : ModelFault) (s : State) : (raiseFault f s).state = s.state := rfl
@[simp] theorem raiseFault_bufIdx (f : ModelFault) (s : State) : (raiseFault f s).bufIdx = s.bufIdx := rfl
@[simp] theorem raiseFault_slot (f : ModelFault) (s : State) : (raiseFault f s).slot = s.slot := rfl
@[simp] theorem raiseFault_held (f : ModelFault) (s : State) : (raiseFault f s).held = s.held := rfl
@[simp] theorem raiseFault_engEn (f : ModelFault) (s : State) : (raiseFault f s).engEn = s.engEn := rfl
@[simp] theorem raiseFault_stopArm (f : ModelFault) (s : State) : (raiseFault f s).stopArm = s.stopArm := rfl
@[simp] theorem raiseFault_drainDone (f : ModelFault) (s : State) : (raiseFault f s).drainDone = s.drainDone := rfl
@[simp] theorem raiseFault_initd (f : ModelFault) (s : State) : (raiseFault f s).initd = s.initd := rfl
@[simp] theorem raiseFault_rate (f : ModelFault) (s : State) : (raiseFault f s).rate = s.rate := rfl
@[simp] theorem raiseFault_size (f : ModelFault) (s : State) : (raiseFault f s).size = s.size := rfl
@[simp] theorem raiseFault_xportEn (f : ModelFault) (s : State) : (raiseFault f s).xportEn = s.xportEn := rfl
@[simp] theorem raiseFault_buf (f : ModelFault) (s : State) : (raiseFault f s).buf = s.buf := rfl
@[simp] theorem raiseFault_pendH (f : ModelFault) (s : State) : (raiseFault f s).pendH = s.pendH := rfl
@[simp] theorem raiseFault_pendC (f : ModelFault) (s : State) : (raiseFault f s).pendC = s.pendC := rfl
@[simp] theorem raiseFault_hist (f : ModelFault) (s : State) : (raiseFault f s).hist = s.hist := rfl
@[simp] theorem raiseFault_portH (f : ModelFault) (s : State) : (raiseFault f s).portH = s.portH := rfl
@[simp] theorem raiseFault_portC (f : ModelFault) (s : State) : (raiseFault f s).portC = s.portC := rfl
@[simp] theorem raiseFault_portE (f : ModelFault) (s : State) : (raiseFault f s).portE = s.portE := rfl
@[simp] theorem raiseFault_draws (f : ModelFault) (s : State) : (raiseFault f s).draws = s.draws := rfl
@[simp] theorem raiseFault_sched (f : ModelFault) (s : State) : (raiseFault f s).sched = s.sched := rfl
@[simp] theorem raiseFault_eng (f : ModelFault) (s : State) : (raiseFault f s).eng = s.eng := rfl
@[simp] theorem raiseFault_cons (f : ModelFault) (s : State) : (raiseFault f s).cons = s.cons := rfl

@[simp] theorem raiseFault_faults (f : ModelFault) (s : State) : (raiseFault f s).faults = s.faults.insert f := rfl

/-! ### spendDraw -/

@[simp] theorem spendDraw_cfg (s : State) : (spendDraw s).cfg = s.cfg := rfl
@[simp] theorem spendDraw_state (s : State) : (spendDraw s).state = s.state := rfl
@[simp] theorem spendDraw_bufIdx (s : State) : (spendDraw s).bufIdx = s.bufIdx := rfl
@[simp] theorem spendDraw_slot (s : State) : (spendDraw s).slot = s.slot := rfl
@[simp] theorem spendDraw_held (s : State) : (spendDraw s).held = s.held := rfl
@[simp] theorem spendDraw_engEn (s : State) : (spendDraw s).engEn = s.engEn := rfl
@[simp] theorem spendDraw_stopArm (s : State) : (spendDraw s).stopArm = s.stopArm := rfl
@[simp] theorem spendDraw_drainDone (s : State) : (spendDraw s).drainDone = s.drainDone := rfl
@[simp] theorem spendDraw_initd (s : State) : (spendDraw s).initd = s.initd := rfl
@[simp] theorem spendDraw_rate (s : State) : (spendDraw s).rate = s.rate := rfl
@[simp] theorem spendDraw_size (s : State) : (spendDraw s).size = s.size := rfl
@[simp] theorem spendDraw_xportEn (s : State) : (spendDraw s).xportEn = s.xportEn := rfl
@[simp] theorem spendDraw_buf (s : State) : (spendDraw s).buf = s.buf := rfl
@[simp] theorem spendDraw_pendH (s : State) : (spendDraw s).pendH = s.pendH := rfl
@[simp] theorem spendDraw_pendC (s : State) : (spendDraw s).pendC = s.pendC := rfl
@[simp] theorem spendDraw_faults (s : State) : (spendDraw s).faults = s.faults := rfl
@[simp] theorem spendDraw_hist (s : State) : (spendDraw s).hist = s.hist := rfl
@[simp] theorem spendDraw_portH (s : State) : (spendDraw s).portH = s.portH := rfl
@[simp] theorem spendDraw_portC (s : State) : (spendDraw s).portC = s.portC := rfl
@[simp] theorem spendDraw_portE (s : State) : (spendDraw s).portE = s.portE := rfl
@[simp] theorem spendDraw_sched (s : State) : (spendDraw s).sched = s.sched := rfl
@[simp] theorem spendDraw_eng (s : State) : (spendDraw s).eng = s.eng := rfl
@[simp] theorem spendDraw_cons (s : State) : (spendDraw s).cons = s.cons := rfl

@[simp] theorem spendDraw_draws (s : State) : (spendDraw s).draws = s.draws + 1 := rfl

/-! ### bufWrite -/

@[simp] theorem bufWrite_cfg (dir : Dir) (ch : Channel) (half : Bool) (off : BitVec 16) (dw : Word) (s : State) : (bufWrite dir ch half off dw s).cfg = s.cfg := rfl
@[simp] theorem bufWrite_state (dir : Dir) (ch : Channel) (half : Bool) (off : BitVec 16) (dw : Word) (s : State) : (bufWrite dir ch half off dw s).state = s.state := rfl
@[simp] theorem bufWrite_bufIdx (dir : Dir) (ch : Channel) (half : Bool) (off : BitVec 16) (dw : Word) (s : State) : (bufWrite dir ch half off dw s).bufIdx = s.bufIdx := rfl
@[simp] theorem bufWrite_slot (dir : Dir) (ch : Channel) (half : Bool) (off : BitVec 16) (dw : Word) (s : State) : (bufWrite dir ch half off dw s).slot = s.slot := rfl
@[simp] theorem bufWrite_held (dir : Dir) (ch : Channel) (half : Bool) (off : BitVec 16) (dw : Word) (s : State) : (bufWrite dir ch half off dw s).held = s.held := rfl
@[simp] theorem bufWrite_engEn (dir : Dir) (ch : Channel) (half : Bool) (off : BitVec 16) (dw : Word) (s : State) : (bufWrite dir ch half off dw s).engEn = s.engEn := rfl
@[simp] theorem bufWrite_stopArm (dir : Dir) (ch : Channel) (half : Bool) (off : BitVec 16) (dw : Word) (s : State) : (bufWrite dir ch half off dw s).stopArm = s.stopArm := rfl
@[simp] theorem bufWrite_drainDone (dir : Dir) (ch : Channel) (half : Bool) (off : BitVec 16) (dw : Word) (s : State) : (bufWrite dir ch half off dw s).drainDone = s.drainDone := rfl
@[simp] theorem bufWrite_initd (dir : Dir) (ch : Channel) (half : Bool) (off : BitVec 16) (dw : Word) (s : State) : (bufWrite dir ch half off dw s).initd = s.initd := rfl
@[simp] theorem bufWrite_rate (dir : Dir) (ch : Channel) (half : Bool) (off : BitVec 16) (dw : Word) (s : State) : (bufWrite dir ch half off dw s).rate = s.rate := rfl
@[simp] theorem bufWrite_size (dir : Dir) (ch : Channel) (half : Bool) (off : BitVec 16) (dw : Word) (s : State) : (bufWrite dir ch half off dw s).size = s.size := rfl
@[simp] theorem bufWrite_xportEn (dir : Dir) (ch : Channel) (half : Bool) (off : BitVec 16) (dw : Word) (s : State) : (bufWrite dir ch half off dw s).xportEn = s.xportEn := rfl
@[simp] theorem bufWrite_pendH (dir : Dir) (ch : Channel) (half : Bool) (off : BitVec 16) (dw : Word) (s : State) : (bufWrite dir ch half off dw s).pendH = s.pendH := rfl
@[simp] theorem bufWrite_pendC (dir : Dir) (ch : Channel) (half : Bool) (off : BitVec 16) (dw : Word) (s : State) : (bufWrite dir ch half off dw s).pendC = s.pendC := rfl
@[simp] theorem bufWrite_faults (dir : Dir) (ch : Channel) (half : Bool) (off : BitVec 16) (dw : Word) (s : State) : (bufWrite dir ch half off dw s).faults = s.faults := rfl
@[simp] theorem bufWrite_hist (dir : Dir) (ch : Channel) (half : Bool) (off : BitVec 16) (dw : Word) (s : State) : (bufWrite dir ch half off dw s).hist = s.hist := rfl
@[simp] theorem bufWrite_portH (dir : Dir) (ch : Channel) (half : Bool) (off : BitVec 16) (dw : Word) (s : State) : (bufWrite dir ch half off dw s).portH = s.portH := rfl
@[simp] theorem bufWrite_portC (dir : Dir) (ch : Channel) (half : Bool) (off : BitVec 16) (dw : Word) (s : State) : (bufWrite dir ch half off dw s).portC = s.portC := rfl
@[simp] theorem bufWrite_portE (dir : Dir) (ch : Channel) (half : Bool) (off : BitVec 16) (dw : Word) (s : State) : (bufWrite dir ch half off dw s).portE = s.portE := rfl
@[simp] theorem bufWrite_draws (dir : Dir) (ch : Channel) (half : Bool) (off : BitVec 16) (dw : Word) (s : State) : (bufWrite dir ch half off dw s).draws = s.draws := rfl
@[simp] theorem bufWrite_sched (dir : Dir) (ch : Channel) (half : Bool) (off : BitVec 16) (dw : Word) (s : State) : (bufWrite dir ch half off dw s).sched = s.sched := rfl
@[simp] theorem bufWrite_eng (dir : Dir) (ch : Channel) (half : Bool) (off : BitVec 16) (dw : Word) (s : State) : (bufWrite dir ch half off dw s).eng = s.eng := rfl
@[simp] theorem bufWrite_cons (dir : Dir) (ch : Channel) (half : Bool) (off : BitVec 16) (dw : Word) (s : State) : (bufWrite dir ch half off dw s).cons = s.cons := rfl

@[simp] theorem bufWrite_buf (dir : Dir) (ch : Channel) (half : Bool) (off : BitVec 16) (dw : Word) (s : State) :
    (bufWrite dir ch half off dw s).buf = s.buf.set (flatAddress s.cfg dir ch half off) (sampleOf s.cfg dw) := rfl

/-! ### respondRead -/

@[simp] theorem respondRead_cfg (i : Instr) (dir : Dir) (ch : Channel) (half : Bool) (off : BitVec 16) (s : State) : (respondRead i dir ch half off s).cfg = s.cfg := by simp only [respondRead]; split <;> simp
@[simp] theorem respondRead_state (i : Instr) (dir : Dir) (ch : Channel) (half : Bool) (off : BitVec 16) (s : State) : (respondRead i dir ch half off s).state = s.state := by simp only [respondRead]; split <;> simp
@[simp] theorem respondRead_bufIdx (i : Instr) (dir : Dir) (ch : Channel) (half : Bool) (off : BitVec 16) (s : State) : (respondRead i dir ch half off s).bufIdx = s.bufIdx := by simp only [respondRead]; split <;> simp
@[simp] theorem respondRead_slot (i : Instr) (dir : Dir) (ch : Channel) (half : Bool) (off : BitVec 16) (s : State) : (respondRead i dir ch half off s).slot = s.slot := by simp only [respondRead]; split <;> simp
@[simp] theorem respondRead_held (i : Instr) (dir : Dir) (ch : Channel) (half : Bool) (off : BitVec 16) (s : State) : (respondRead i dir ch half off s).held = s.held := by simp only [respondRead]; split <;> simp
@[simp] theorem respondRead_engEn (i : Instr) (dir : Dir) (ch : Channel) (half : Bool) (off : BitVec 16) (s : State) : (respondRead i dir ch half off s).engEn = s.engEn := by simp only [respondRead]; split <;> simp
@[simp] theorem respondRead_stopArm (i : Instr) (dir : Dir) (ch : Channel) (half : Bool) (off : BitVec 16) (s : State) : (respondRead i dir ch half off s).stopArm = s.stopArm := by simp only [respondRead]; split <;> simp
@[simp] theorem respondRead_drainDone (i : Instr) (dir : Dir) (ch : Channel) (half : Bool) (off : BitVec 16) (s : State) : (respondRead i dir ch half off s).drainDone = s.drainDone := by simp only [respondRead]; split <;> simp
@[simp] theorem respondRead_initd (i : Instr) (dir : Dir) (ch : Channel) (half : Bool) (off : BitVec 16) (s : State) : (respondRead i dir ch half off s).initd = s.initd := by simp only [respondRead]; split <;> simp
@[simp] theorem respondRead_rate (i : Instr) (dir : Dir) (ch : Channel) (half : Bool) (off : BitVec 16) (s : State) : (respondRead i dir ch half off s).rate = s.rate := by simp only [respondRead]; split <;> simp
@[simp] theorem respondRead_size (i : Instr) (dir : Dir) (ch : Channel) (half : Bool) (off : BitVec 16) (s : State) : (respondRead i dir ch half off s).size = s.size := by simp only [respondRead]; split <;> simp
@[simp] theorem respondRead_xportEn (i : Instr) (dir : Dir) (ch : Channel) (half : Bool) (off : BitVec 16) (s : State) : (respondRead i dir ch half off s).xportEn = s.xportEn := by simp only [respondRead]; split <;> simp
@[simp] theorem respondRead_buf (i : Instr) (dir : Dir) (ch : Channel) (half : Bool) (off : BitVec 16) (s : State) : (respondRead i dir ch half off s).buf = s.buf := by simp only [respondRead]; split <;> simp
@[simp] theorem respondRead_pendH (i : Instr) (dir : Dir) (ch : Channel) (half : Bool) (off : BitVec 16) (s : State) : (respondRead i dir ch half off s).pendH = s.pendH := by simp only [respondRead]; split <;> simp
@[simp] theorem respondRead_pendC (i : Instr) (dir : Dir) (ch : Channel) (half : Bool) (off : BitVec 16) (s : State) : (respondRead i dir ch half off s).pendC = s.pendC := by simp only [respondRead]; split <;> simp
@[simp] theorem respondRead_faults (i : Instr) (dir : Dir) (ch : Channel) (half : Bool) (off : BitVec 16) (s : State) : (respondRead i dir ch half off s).faults = s.faults := by simp only [respondRead]; split <;> simp
@[simp] theorem respondRead_sched (i : Instr) (dir : Dir) (ch : Channel) (half : Bool) (off : BitVec 16) (s : State) : (respondRead i dir ch half off s).sched = s.sched := by simp only [respondRead]; split <;> simp
@[simp] theorem respondRead_eng (i : Instr) (dir : Dir) (ch : Channel) (half : Bool) (off : BitVec 16) (s : State) : (respondRead i dir ch half off s).eng = s.eng := by simp only [respondRead]; split <;> simp
@[simp] theorem respondRead_cons (i : Instr) (dir : Dir) (ch : Channel) (half : Bool) (off : BitVec 16) (s : State) : (respondRead i dir ch half off s).cons = s.cons := by simp only [respondRead]; split <;> simp

/-! ### issue -/

@[simp] theorem issue_cfg (i : Instr) (s : State) : (issue i s).cfg = s.cfg := by simp [issue]
@[simp] theorem issue_state (i : Instr) (s : State) : (issue i s).state = s.state := by simp [issue]
@[simp] theorem issue_bufIdx (i : Instr) (s : State) : (issue i s).bufIdx = s.bufIdx := by simp [issue]
@[simp] theorem issue_slot (i : Instr) (s : State) : (issue i s).slot = s.slot := by simp [issue]
@[simp] theorem issue_held (i : Instr) (s : State) : (issue i s).held = s.held := by simp [issue]
@[simp] theorem issue_engEn (i : Instr) (s : State) : (issue i s).engEn = s.engEn := by simp [issue]
@[simp] theorem issue_stopArm (i : Instr) (s : State) : (issue i s).stopArm = s.stopArm := by simp [issue]
@[simp] theorem issue_drainDone (i : Instr) (s : State) : (issue i s).drainDone = s.drainDone := by simp [issue]
@[simp] theorem issue_initd (i : Instr) (s : State) : (issue i s).initd = s.initd := by simp [issue]
@[simp] theorem issue_rate (i : Instr) (s : State) : (issue i s).rate = s.rate := by simp [issue]
@[simp] theorem issue_size (i : Instr) (s : State) : (issue i s).size = s.size := by simp [issue]
@[simp] theorem issue_xportEn (i : Instr) (s : State) : (issue i s).xportEn = s.xportEn := by simp [issue]
@[simp] theorem issue_buf (i : Instr) (s : State) : (issue i s).buf = s.buf := by simp [issue]
@[simp] theorem issue_pendH (i : Instr) (s : State) : (issue i s).pendH = s.pendH := by simp [issue]
@[simp] theorem issue_pendC (i : Instr) (s : State) : (issue i s).pendC = s.pendC := by simp [issue]
@[simp] theorem issue_faults (i : Instr) (s : State) : (issue i s).faults = s.faults := by simp [issue]
@[simp] theorem issue_hist (i : Instr) (s : State) : (issue i s).hist = s.hist := by simp [issue]
@[simp] theorem issue_draws (i : Instr) (s : State) : (issue i s).draws = s.draws := by simp [issue]
@[simp] theorem issue_sched (i : Instr) (s : State) : (issue i s).sched = s.sched := by simp [issue]
@[simp] theorem issue_eng (i : Instr) (s : State) : (issue i s).eng = s.eng := by simp [issue]
@[simp] theorem issue_cons (i : Instr) (s : State) : (issue i s).cons = s.cons := by simp [issue]

end Sys2Proof.Machine
end

