-- ==== Sys2Proof/Laws/Encoding.lean ====
section
/-! SUPPORT. The words of a command, bit by bit: its OP field, its fixed bits, its operands, its length (30_encoding.md R70 to R82). -/

namespace Sys2Proof

@[simp] theorem getLsbD_bit32 (b : Bool) (k : Nat) : (bit32 b).getLsbD k = (decide (k = 0) && b) := by
  cases b <;> simp [bit32]

@[simp] theorem getElem_bit32 (b : Bool) (k : Nat) (h : k < 32) : (bit32 b)[k] = (decide (k = 0) && b) := by
  rw [← BitVec.getLsbD_eq_getElem, getLsbD_bit32]

@[simp] theorem Dir.ofBit_bit (d : Dir) : Dir.ofBit d.bit = d := by cases d <;> rfl

@[simp] theorem Channel.ofBit_bit (c : Channel) : Channel.ofBit c.bit = c := by cases c <;> rfl

@[simp] theorem Dir.bit_ofBit (b : Bool) : (Dir.ofBit b).bit = b := by cases b <;> rfl

@[simp] theorem Channel.bit_ofBit (b : Bool) : (Channel.ofBit b).bit = b := by cases b <;> rfl

@[simp] theorem Opcode.ofBits_bits (op : Opcode) : Opcode.ofBits op.bits = some op := by cases op <;> rfl

/-- An OP field names the opcode with those bits and no other. -/
theorem Opcode.bits_of_ofBits {b : BitVec 4} {op : Opcode} (h : Opcode.ofBits b = some op) : op.bits = b := by
  revert op; revert b; decide

/-- The OP field of a command's word (30_encoding.md R70). -/
@[simp] theorem opField_cw (i : Instr) : opField i.cw = i.opcode.bits := by
  cases i <;> apply BitVec.eq_of_getLsbD_eq <;> intro k hk <;> interval_cases k <;>
    simp [Instr.cw, opField, Instr.opcode, Opcode.bits]

/-- The fixed bits of a command's word are its format's pattern (30_encoding.md R74 to R81). -/
@[simp] theorem cw_fixed (i : Instr) : i.cw &&& i.opcode.format.mask = i.opcode.pattern := by
  cases i <;> apply BitVec.eq_of_getLsbD_eq <;> intro k hk <;> interval_cases k <;>
    simp [Instr.cw, Instr.opcode, Opcode.bits, Opcode.format, Format.mask, Opcode.pattern]

/-- The operands read from a command's words are the command's own (30_encoding.md R82). -/
@[simp] theorem operandsOf_cw (i : Instr) : operandsOf i.opcode i.cw (i.dw.getD 0#32) = i := by
  cases i <;> simp [Instr.cw, Instr.opcode, operandsOf, Instr.dw]
  case reconf =>
    constructor <;> apply BitVec.eq_of_getLsbD_eq <;> intro k hk <;> interval_cases k <;> simp
  all_goals
    apply BitVec.eq_of_getLsbD_eq
    intro k hk
    interval_cases k <;> simp

/-- A command is two words long exactly when it has a data word (30_encoding.md R71). -/
@[simp] theorem twoWords_cw (i : Instr) : twoWords i.cw = i.dw.isSome := by
  rw [twoWords, opField_cw]
  cases i <;> rfl

/-- The operands keep the opcode. -/
@[simp] theorem opcode_operandsOf (op : Opcode) (cw dw : Word) : (operandsOf op cw dw).opcode = op := by cases op <;> rfl

namespace Machine

/-- The words of a command at the head of a stream are taken as that command (30_encoding.md R71). -/
@[simp] theorem nextCommand_encode (i : Instr) (rest : List Word) :
    nextCommand (encode i ++ rest) = some (i.cw, i.dw) := by
  have h := twoWords_cw i
  cases hd : i.dw with
  | none => simp [encode, nextCommand, h, hd]
  | some dw => simp [encode, nextCommand, h, hd]

end Machine

end Sys2Proof
end

