-- ==== Sys2Proof/Laws/Agents.lean ====
section
/-! SUPPORT. The places of the reference agents: what marking an access and seeing a word do (40_engine.md R108; 42_processor.md R138). -/

namespace Sys2Proof.Machine

theorem ns_pos (c : Config) : 0 < c.ns := Nat.succ_pos _

theorem ns_le (c : Config) : c.ns ≤ 65536 := c.nsPred.isLt

@[simp] theorem RingAgent.mark_half (a : RingAgent) (w : Bool) (ch : Channel) : (a.mark w ch).half = a.half := by
  cases w <;> cases ch <;> rfl

@[simp] theorem RingAgent.mark_off (a : RingAgent) (w : Bool) (ch : Channel) : (a.mark w ch).off = a.off := by
  cases w <;> cases ch <;> rfl

@[simp] theorem RingAgent.settle_half (a : RingAgent) : a.settle.half = a.half := by
  unfold RingAgent.settle; split <;> rfl

/-- Settling goes on by at most one offset. -/
theorem RingAgent.settle_off (a : RingAgent) : a.settle.off = a.off ∨ a.settle.off = a.off + 1 := by
  unfold RingAgent.settle
  split
  · exact .inr rfl
  · exact .inl rfl

/-- After settling, an access of the offset is still to make. -/
theorem RingAgent.settle_open (a : RingAgent) :
    ¬ (a.settle.wroteLeft = true ∧ a.settle.wroteRight = true ∧ a.settle.readLeft = true ∧ a.settle.readRight = true) := by
  unfold RingAgent.settle
  split
  · simp
  · next h => simpa [and_assoc] using h

/-- The engine's offset survives its 16-bit operand. -/
theorem engine_off_toNat {s : State} (h : s.eng.off < s.cfg.ns) : (BitVec.ofNat 16 s.eng.off).toNat = s.eng.off := by
  have := ns_le s.cfg
  simp only [BitVec.toNat_ofNat]
  omega

/-- A word seen leaves another to come in its phase, or begins the next phase with none seen. -/
theorem LoopAgent.see_length {a : LoopAgent} {c : Config} (h : a.seen.length < 2 * c.ns) (ch : Channel) (off : BitVec 16)
    (next : LoopPhase) : (a.see c ch off next).seen.length < 2 * c.ns := by
  have := ns_pos c
  unfold LoopAgent.see
  split
  · simpa using this
  · next hn =>
    simp only [beq_iff_eq] at hn
    simp only [List.length_cons]
    omega

/-- What seeing a word does, in either case. -/
theorem LoopAgent.see_cases (a : LoopAgent) (c : Config) (ch : Channel) (off : BitVec 16) (next : LoopPhase) :
    (a.seen.length + 1 = 2 * c.ns ∧ a.see c ch off next = { phase := next, seen := [] }) ∨
    (a.seen.length + 1 ≠ 2 * c.ns ∧ a.see c ch off next = { a with seen := (ch, off) :: a.seen }) := by
  unfold LoopAgent.see
  split
  · next h => exact .inl ⟨by simpa using h, rfl⟩
  · next h => exact .inr ⟨by simpa using h, rfl⟩

theorem LoopAgent.wantsRead_lt {a : LoopAgent} {c : Config} {ch : Channel} {off : BitVec 16} (h : a.wantsRead c ch off = true) :
    off.toNat < c.ns := by
  simp only [LoopAgent.wantsRead, offInRange, Bool.and_eq_true, decide_eq_true_eq] at h
  exact h.1

/-- The write loop stays inside the block. -/
theorem LoopAgent.wantsWrite_lt {a : LoopAgent} {c : Config} {ch : Channel} {off : BitVec 16} (h : a.wantsWrite c ch off = true) :
    off.toNat < c.ns := by
  have := ns_pos c
  unfold LoopAgent.wantsWrite at h
  split at h
  · rw [beq_iff_eq] at h; subst h; simpa using this
  · split at h
    · next hl => simp only [Bool.and_eq_true, beq_iff_eq] at h; omega
    · simp only [Bool.and_eq_true, beq_iff_eq] at h; rw [h.2]; simpa using this

end Sys2Proof.Machine
end

