-- ==== Sys2Proof/Laws/Memory.lean ====
section
/-! SUPPORT. BUF: a read after a write, the canonical form, and the words of BUF at distinct flat addresses (20_memory.md R50, R51). -/

namespace Sys2Proof.Machine

@[simp] theorem Memory.get_nil (a : Nat) : Memory.get [] a = none := rfl

theorem Memory.get_set_same (m : Memory) (a : Nat) (v : Word) : (m.set a v).get a = some v := by
  induction m with
  | nil => simp [Memory.set, Memory.get]
  | cons cell m ih =>
    obtain ⟨b, w⟩ := cell
    simp only [Memory.set]
    split
    · simp [Memory.get]
    · split
      · simp [Memory.get]
      · rename_i h1 h2
        simp [Memory.get, ih, Ne.symm h2]

theorem Memory.get_set_other (m : Memory) {a b : Nat} (v : Word) (h : b ≠ a) : (m.set a v).get b = m.get b := by
  induction m with
  | nil => simp [Memory.set, Memory.get, Ne.symm h]
  | cons cell m ih =>
    obtain ⟨c, w⟩ := cell
    simp only [Memory.set]
    split
    · simp [Memory.get, Ne.symm h]
    · split
      · rename_i h1 h2
        subst h2
        simp [Memory.get, Ne.symm h]
      · simp [Memory.get, ih]

theorem Memory.get_set (m : Memory) (a b : Nat) (v : Word) : (m.set a v).get b = if b = a then some v else m.get b := by
  split
  · next h => rw [h, Memory.get_set_same]
  · next h => exact Memory.get_set_other m v h

/-- Every word listed after a write was listed before, or is the word written. -/
theorem Memory.mem_set {m : Memory} {a : Nat} {v : Word} {cell : BufCell} (h : cell ∈ m.set a v) : cell ∈ m ∨ cell = (a, v) := by
  induction m with
  | nil => simpa [Memory.set] using h
  | cons head m ih =>
    obtain ⟨b, w⟩ := head
    simp only [Memory.set] at h
    split at h
    · simp only [List.mem_cons] at h ⊢
      tauto
    · split at h
      · simp only [List.mem_cons] at h ⊢
        tauto
      · simp only [List.mem_cons] at h ⊢
        rcases h with h | h
        · exact .inl (.inl h)
        · rcases ih h with h | h
          · exact .inl (.inr h)
          · exact .inr h

/-- A write keeps the canonical form. -/
theorem Memory.wf_set {m : Memory} (h : m.wf) (a : Nat) (v : Word) : (m.set a v).wf := by
  induction m with
  | nil => simp [Memory.set]
  | cons head m ih =>
    obtain ⟨b, w⟩ := head
    obtain ⟨hb, hm⟩ := List.pairwise_cons.mp h
    simp only [Memory.set]
    split
    · next hab =>
      refine List.pairwise_cons.mpr ⟨fun cell hc => ?_, h⟩
      rcases List.mem_cons.mp hc with rfl | hc
      · exact hab
      · exact lt_trans hab (hb cell hc)
    · split
      · next hab =>
        subst hab
        exact List.pairwise_cons.mpr ⟨hb, hm⟩
      · next h1 h2 =>
        refine List.pairwise_cons.mpr ⟨fun cell hc => ?_, ih hm⟩
        rcases Memory.mem_set hc with hc | rfl
        · exact hb cell hc
        · simp only; omega

/-- The word at the address just written. -/
theorem bufWrite_bufWord_same (dir : Dir) (ch : Channel) (half : Bool) (off : BitVec 16) (dw : Word) (s : State) :
    (bufWrite dir ch half off dw s).bufWord dir ch half off = some (sampleOf s.cfg dw) := by
  simp [State.bufWord, Memory.get_set_same]

/-- Every flat address but the one written reads as before. -/
theorem bufWrite_get (dir : Dir) (ch : Channel) (half : Bool) (off : BitVec 16) (dw : Word) (s : State) (a : Nat) :
    (bufWrite dir ch half off dw s).buf.get a =
      if a = flatAddress s.cfg dir ch half off then some (sampleOf s.cfg dw) else s.buf.get a := by
  simp [Memory.get_set]

/-- A sample is an SW-bit value (20_memory.md R55). -/
theorem sampleOf_lt (c : Config) (dw : Word) : (sampleOf c dw).toNat < 2 ^ c.sw := by
  have h : (sampleOf c dw).toNat ≤ (dw.setWidth c.sw).toNat := by
    simp only [sampleOf, BitVec.toNat_setWidth]
    exact Nat.mod_le _ _
  exact lt_of_le_of_lt h (dw.setWidth c.sw).isLt

end Sys2Proof.Machine
end

