-- ==== Sys2Proof/Laws/Step.lean ====
section
/-! SUPPORT. What a step can be: one inversion lemma per layer, from `step` down to `exec`. -/

namespace Sys2Proof.Machine

/-- A turn is a port's command, one of the four completion steps, or a move of a reference agent. -/
theorem step_cases {s t : State} (h : step s = .next t) :
    (s.sched = [] ∧ t = s) ∨
    ∃ u us, s.sched = u :: us ∧ runTurn u (s.setSched us) = .next t := by
  unfold step at h
  split at h
  · next hs => exact .inl ⟨hs, (Host.Outcome.next.inj h).symm⟩
  · next u us hs => exact .inr ⟨u, us, hs, h⟩

/-- A command that was taken is the one its words decode to, or completes with ILLEGAL. -/
theorem runCommand_cases {p : Port} {cw : Word} {dw : Option Word} {s t : State} (h : runCommand p cw dw s = .next t) :
    (∃ i, decode s.cfg p cw (dw.getD 0#32) = .ok i ∧ exec i s = .next t) ∨
    ((∃ e, decode s.cfg p cw (dw.getD 0#32) = .error e) ∧ t = complete p cw dw .illegal 0#32 false s) := by
  unfold runCommand at h
  split at h
  · next i hi => exact .inl ⟨i, hi, h⟩
  · next e he => exact .inr ⟨⟨e, he⟩, (Host.Outcome.next.inj h).symm⟩

/-- A port takes its next command only when none is outstanding and one has arrived. -/
theorem takeCommand_cases {p : Port} {s t : State} (h : takeCommand p s = .next t) :
    t = s ∨
    ∃ cw dw, s.pending p = none ∧ nextCommand (s.port p).stream = some (cw, dw) ∧ runCommand p cw dw s = .next t := by
  unfold takeCommand at h
  split at h
  · exact .inl (Host.Outcome.next.inj h).symm
  · next hp =>
    split at h
    · exact .inl (Host.Outcome.next.inj h).symm
    · next cw dw hn => exact .inr ⟨cw, dw, hp, hn, h⟩

/-- A move of the reference engine changes nothing, or issues one command for its own half while ENG_EN = 1. -/
theorem engineMove_cases {m : EngineMove} {s t : State} (h : engineMove m s = .next t) :
    t = s ∨
    (s.engEn = true ∧ s.portE.stream = [] ∧
      ((∃ ch dw, s.eng.off < s.cfg.ns ∧
          takeCommand .engine (issue (.ewr ch s.eng.half (BitVec.ofNat 16 s.eng.off) dw)
            (spendDraw (s.setEng (s.eng.mark true ch).settle))) = .next t) ∨
       (∃ ch, s.eng.off < s.cfg.ns ∧
          takeCommand .engine (issue (.erd ch s.eng.half (BitVec.ofNat 16 s.eng.off))
            (s.setEng (s.eng.mark false ch).settle)) = .next t) ∨
       takeCommand .engine (issue (.evt s.eng.half) (s.setEng s.eng.flip)) = .next t)) := by
  unfold engineMove at h
  split at h
  · exact .inl (Host.Outcome.next.inj h).symm
  · next hg =>
    simp only [Bool.or_eq_true, not_or, Bool.not_eq_true, Bool.not_eq_false', List.isEmpty_iff] at hg
    split at h
    · split at h
      · next ch hc =>
        simp only [Bool.and_eq_true, decide_eq_true_eq] at hc
        exact .inr ⟨hg.1, hg.2, .inl ⟨_, _, hc.1, h⟩⟩
      · exact .inl (Host.Outcome.next.inj h).symm
    · split at h
      · next ch hc =>
        simp only [Bool.and_eq_true, decide_eq_true_eq] at hc
        exact .inr ⟨hg.1, hg.2, .inr (.inl ⟨_, hc.1, h⟩)⟩
      · exact .inl (Host.Outcome.next.inj h).symm
    · split at h
      · exact .inr ⟨hg.1, hg.2, .inr (.inr h)⟩
      · exact .inl (Host.Outcome.next.inj h).symm

/-- A move of the reference consumer changes nothing, or issues one command of its loop on an idle port C. -/
theorem consumerMove_cases {m : ConsumerMove} {s t : State} (h : consumerMove m s = .next t) :
    t = s ∨
    (s.portC.stream = [] ∧ s.pendC = none ∧
      ((s.cons.phase = .take ∧
          takeCommand .consumer (issue (.take 0xFFFFFF#24) (s.setCons { phase := .read, seen := [] })) = .next t) ∨
       (∃ ch off, s.cons.phase = .read ∧ s.cons.wantsRead s.cfg ch off = true ∧
          takeCommand .consumer (issue (.crd ch off) (s.setCons (s.cons.see s.cfg ch off .write))) = .next t) ∨
       (∃ ch off dw, s.cons.phase = .write ∧ s.cons.wantsWrite s.cfg ch off = true ∧
          takeCommand .consumer (issue (.cwr ch off dw) (s.setCons (s.cons.see s.cfg ch off .release))) = .next t) ∨
       (s.cons.phase = .release ∧ takeCommand .consumer (issue .done (s.setCons LoopAgent.start)) = .next t))) := by
  unfold consumerMove at h
  split at h
  · exact .inl (Host.Outcome.next.inj h).symm
  · next hg =>
    simp only [Bool.or_eq_true, not_or, Bool.not_eq_true, Bool.not_eq_false', List.isEmpty_iff, Option.isSome_eq_false_iff,
      Option.isNone_iff_eq_none] at hg
    split at h
    · split at h
      · next hc => exact .inr ⟨hg.1, hg.2, .inl ⟨by simpa using hc, h⟩⟩
      · exact .inl (Host.Outcome.next.inj h).symm
    · split at h
      · next ch off hc =>
        simp only [Bool.and_eq_true, beq_iff_eq] at hc
        exact .inr ⟨hg.1, hg.2, .inr (.inl ⟨ch, off, hc.1, hc.2, h⟩)⟩
      · exact .inl (Host.Outcome.next.inj h).symm
    · split at h
      · next ch off dw hc =>
        simp only [Bool.and_eq_true, beq_iff_eq] at hc
        exact .inr ⟨hg.1, hg.2, .inr (.inr (.inl ⟨ch, off, dw, hc.1, hc.2, h⟩))⟩
      · exact .inl (Host.Outcome.next.inj h).symm
    · split at h
      · next hc => exact .inr ⟨hg.1, hg.2, .inr (.inr (.inr ⟨by simpa using hc, h⟩))⟩
      · exact .inl (Host.Outcome.next.inj h).symm

/-- What a turn does that is no command of a stream: nothing, a completion step, or a reference agent's move. -/
theorem runTurn_cases {u : Turn} {s t : State} (h : runTurn u s = .next t) :
    (∃ p, u = .command p ∧ takeCommand p s = .next t) ∨
    (u = .deliver ∧ t = deliveryStep s) ∨
    (u = .takeTimeout ∧ t = takeTimeoutStep s) ∨
    (u = .finish ∧ t = finishStep s) ∨
    (u = .drainTimeout ∧ t = drainTimeoutStep s) ∨
    (∃ m, u = .engine m ∧ engineMove m s = .next t) ∨
    (∃ m, u = .consumer m ∧ consumerMove m s = .next t) := by
  cases u with
  | command p => exact .inl ⟨p, rfl, h⟩
  | deliver => exact .inr (.inl ⟨rfl, (Host.Outcome.next.inj h).symm⟩)
  | takeTimeout => exact .inr (.inr (.inl ⟨rfl, (Host.Outcome.next.inj h).symm⟩))
  | finish => exact .inr (.inr (.inr (.inl ⟨rfl, (Host.Outcome.next.inj h).symm⟩)))
  | drainTimeout => exact .inr (.inr (.inr (.inr (.inl ⟨rfl, (Host.Outcome.next.inj h).symm⟩))))
  | engine m => exact .inr (.inr (.inr (.inr (.inr (.inl ⟨m, rfl, h⟩)))))
  | consumer m => exact .inr (.inr (.inr (.inr (.inr (.inr ⟨m, rfl, h⟩)))))

/-- A reflexive and transitive relation between states that every command rule, the ILLEGAL response, every completion step
and every change of the agents' own state stays in, holds across every step. -/
theorem step_induction {P : State → State → Prop} {s t : State} (h : step s = .next t)
    (refl : ∀ a, P a a)
    (trans : ∀ {a b c : State}, P a b → P b c → P a c)
    (sched : ∀ a us, P a (a.setSched us))
    (eng : ∀ a e, P a (a.setEng e))
    (draw : ∀ a, P a (spendDraw a))
    (cons : ∀ a e, P a (a.setCons e))
    (issued : ∀ a i, P a (issue i a))
    (illegal : ∀ a p cw dw, P a (complete p cw dw .illegal 0#32 false a))
    (rule : ∀ {a b : State} {i : Instr}, exec i a = .next b → P a b)
    (deliver : ∀ a, P a (deliveryStep a))
    (takeTimeout : ∀ a, P a (takeTimeoutStep a))
    (finish : ∀ a, P a (finishStep a))
    (drainTimeout : ∀ a, P a (drainTimeoutStep a)) : P s t := by
  have taken : ∀ {p : Port} {a b : State}, takeCommand p a = .next b → P a b := by
    intro p a b hab
    rcases takeCommand_cases hab with rfl | ⟨cw, dw, _, _, hr⟩
    · exact refl _
    · rcases runCommand_cases hr with ⟨i, _, hi⟩ | ⟨_, rfl⟩
      · exact rule hi
      · exact illegal _ _ _ _
  rcases step_cases h with ⟨_, rfl⟩ | ⟨u, us, _, hu⟩
  · exact refl _
  refine trans (sched s us) ?_
  rcases runTurn_cases hu with ⟨p, _, hp⟩ | ⟨_, rfl⟩ | ⟨_, rfl⟩ | ⟨_, rfl⟩ | ⟨_, rfl⟩ | ⟨m, _, hm⟩ | ⟨m, _, hm⟩
  · exact taken hp
  · exact deliver _
  · exact takeTimeout _
  · exact finish _
  · exact drainTimeout _
  · rcases engineMove_cases hm with rfl | ⟨_, _, ⟨ch, dw, _, ht⟩ | ⟨ch, _, ht⟩ | ht⟩
    · exact refl _
    · exact trans (trans (eng _ _) (draw _)) (trans (issued _ _) (taken ht))
    · exact trans (eng _ _) (trans (issued _ _) (taken ht))
    · exact trans (eng _ _) (trans (issued _ _) (taken ht))
  · rcases consumerMove_cases hm with rfl | ⟨_, _, ⟨_, ht⟩ | ⟨_, _, _, _, ht⟩ | ⟨_, _, _, _, _, ht⟩ | ⟨_, ht⟩⟩
    · exact refl _
    all_goals exact trans (cons _ _) (trans (issued _ _) (taken ht))

end Sys2Proof.Machine
end

