-- ==== Sys2Proof/Laws/Control.lean ====
section
/-! SUPPORT. What a step can do to the control state, said once: every step changes it in one of the ways `ControlStep` lists
(each the effect of one command rule or completion step of spec/). -/

namespace Sys2Proof.Machine

/-- The control and status elements of 10_state.md R22, with the outstanding commands. -/
structure Control where
  state     : StreamState
  bufIdx    : Bool
  slot      : Slot
  held      : Held
  engEn     : Bool
  stopArm   : Bool
  drainDone : Bool
  initd     : Bool
  rate      : BitVec 20
  size      : BitVec 6
  xportEn   : Bool
  pendH     : Option (BitVec 24)
  pendC     : Option (BitVec 24)

/-- The control part of a state. -/
def State.control (s : State) : Control :=
  ⟨s.state, s.bufIdx, s.slot, s.held, s.engEn, s.stopArm, s.drainDone, s.initd, s.rate, s.size, s.xportEn, s.pendH, s.pendC⟩

/-- The ways the control state changes. -/
inductive ControlStep : Control → Control → Prop where
  | same (c) : ControlStep c c
  | init (c) : c.initd = false →
      ControlStep c { c with bufIdx := true, slot := Slot.empty, drainDone := false, initd := true }
  | start (c) : c.state = .idle → c.initd = true →
      ControlStep c { c with stopArm := false, drainDone := false, engEn := true, xportEn := true, state := .streaming }
  | stop (c) : c.state = .streaming → ControlStep c { c with state := .stopRequested, stopArm := true }
  | pendDrain (c tmo) : c.state = .stopRequested ∨ c.state = .draining → c.drainDone = false → tmo ≠ 0#24 →
      ControlStep c { c with pendH := some tmo }
  | finish (c) : c.drainDone = true → ControlStep c { c with drainDone := false, state := .idle, pendH := none }
  | drainTimeout (c) : c.pendH ≠ none → c.drainDone = false → ControlStep c { c with pendH := none }
  | reconf (c rate size) : c.state = .idle → ControlStep c { c with rate := rate, size := size }
  | deliver (c) : c.slot.full = true → c.held.valid = false ∨ c.pendC ≠ none →
      ControlStep c { c with
        held := { valid := true, idx := c.slot.idx, final := c.slot.final, ovr := false }
        slot := { c.slot with full := false }
        pendC := none }
  | pendTake (c tmo) : c.held.valid = false → c.slot.full = false → tmo ≠ 0#24 → ControlStep c { c with pendC := some tmo }
  | takeTimeout (c) : c.pendC ≠ none → c.slot.full = false → ControlStep c { c with pendC := none }
  | release (c) : c.held.valid = true →
      ControlStep c { c with
        drainDone := c.drainDone || (c.held.final && c.state == .draining)
        held := { c.held with valid := false } }
  | event (c tc) : c.engEn = true → c.stopArm = false →
      ControlStep c { c with
        bufIdx := tc
        held := { c.held with ovr := c.held.ovr || c.held.valid }
        slot := { full := true, idx := tc, final := false } }
  | halt (c tc) : c.engEn = true → c.stopArm = true →
      ControlStep c { c with
        bufIdx := tc
        held := { c.held with ovr := c.held.ovr || c.held.valid }
        slot := { full := true, idx := tc, final := true }
        engEn := false
        state := .draining }

@[simp] theorem complete_control (p : Port) (cw : Word) (dw : Option Word) (sts : Status) (data : Word) (drawn : Bool) (s : State) :
    (complete p cw dw sts data drawn s).control = s.control := by cases p <;> rfl

@[simp] theorem respond_control (i : Instr) (sts : Status) (data : Word) (s : State) :
    (respond i sts data s).control = s.control := complete_control _ _ _ _ _ _ _

@[simp] theorem setSched_control (s : State) (us : List Turn) : (s.setSched us).control = s.control := rfl

@[simp] theorem setEng_control (s : State) (a : RingAgent) : (s.setEng a).control = s.control := rfl

@[simp] theorem setCons_control (s : State) (a : LoopAgent) : (s.setCons a).control = s.control := rfl

@[simp] theorem emit_control (e : Event) (s : State) : (emit e s).control = s.control := by cases e <;> rfl

@[simp] theorem raiseFault_control (f : ModelFault) (s : State) : (raiseFault f s).control = s.control := rfl

@[simp] theorem spendDraw_control (s : State) : (spendDraw s).control = s.control := rfl

@[simp] theorem bufWrite_control (dir : Dir) (ch : Channel) (half : Bool) (off : BitVec 16) (dw : Word) (s : State) :
    (bufWrite dir ch half off dw s).control = s.control := rfl

@[simp] theorem respondRead_control (i : Instr) (dir : Dir) (ch : Channel) (half : Bool) (off : BitVec 16) (s : State) :
    (respondRead i dir ch half off s).control = s.control := by
  simp only [respondRead]; split <;> simp

@[simp] theorem issue_control (i : Instr) (s : State) : (issue i s).control = s.control := by
  unfold issue; cases i.port <;> rfl

/-- A delivery's effect on the control state. -/
theorem deliverBlock_control (tmo : BitVec 24) (s : State) :
    (deliverBlock tmo s).control =
      { s.control with
        held := { valid := true, idx := s.slot.idx, final := s.slot.final, ovr := false }
        slot := { s.slot with full := false }
        pendC := none } := by
  simp [deliverBlock, State.control]

/-- A finish's effect on the control state. -/
theorem finishDrain_control (tmo : BitVec 24) (s : State) :
    (finishDrain tmo s).control = { s.control with drainDone := false, state := .idle, pendH := none } := by
  simp [finishDrain, State.control]

/-- Every command rule changes the control state in one of the listed ways. -/
theorem exec_control {i : Instr} {s t : State} (h : exec i s = .next t) : ControlStep s.control t.control := by
  cases i with
  | init =>
    simp only [exec, execInit] at h
    split at h <;> cases h
    · simpa using ControlStep.same _
    · next hi => simpa [State.control] using ControlStep.init s.control (by simpa [State.control] using hi)
  | start =>
    simp only [exec, execStart] at h
    split at h <;> cases h
    · simpa using ControlStep.same _
    · next hi =>
      simp only [Bool.or_eq_true, bne_iff_ne, ne_eq, not_or, not_not, Bool.not_eq_true, Bool.not_eq_false'] at hi
      simpa [State.control] using ControlStep.start s.control hi.1 hi.2
  | stop =>
    simp only [exec, execStop] at h
    split at h <;> cases h
    · simpa using ControlStep.same _
    · next hi => simpa [State.control] using ControlStep.stop s.control (by simpa [State.control] using hi)
  | wdrain tmo =>
    simp only [exec, execWdrain] at h
    split at h
    · cases h; simpa using ControlStep.same _
    next hs =>
    split at h
    · next hd => cases h; rw [finishDrain_control]; exact ControlStep.finish s.control hd
    next hd =>
    split at h
    · cases h; simpa using ControlStep.same _
    · next hp =>
      cases h
      refine ControlStep.pendDrain s.control tmo ?_ (by simpa [State.control] using hd) (by simpa [isPoll] using hp)
      revert hs; simp only [State.control]; cases s.state <;> decide
  | reconf rate size =>
    simp only [exec, execReconf] at h
    split at h <;> cases h
    · simpa using ControlStep.same _
    · next hi => simpa [State.control] using ControlStep.reconf s.control rate size (by simpa [State.control] using hi)
  | stat sel =>
    simp only [exec, execStat] at h
    cases h; simpa using ControlStep.same _
  | bufrd dir ch half off =>
    simp only [exec, execBufrd] at h
    split at h
    · cases h; simpa using ControlStep.same _
    split at h <;> cases h <;> simpa using ControlStep.same _
  | take tmo =>
    simp only [exec, execTake] at h
    split at h
    · cases h; simpa using ControlStep.same _
    next hv =>
    split at h
    · next hf =>
      cases h; rw [deliverBlock_control]
      exact ControlStep.deliver s.control hf (.inl (by simpa [State.control] using hv))
    next hf =>
    split at h
    · cases h; simpa using ControlStep.same _
    · next hp =>
      cases h
      exact ControlStep.pendTake s.control tmo (by simpa [State.control] using hv) (by simpa [State.control] using hf)
        (by simpa [isPoll] using hp)
  | done =>
    simp only [exec, execDone] at h
    split at h <;> cases h
    · simpa using ControlStep.same _
    · next hi => simpa [State.control] using ControlStep.release s.control (by simpa [State.control] using hi)
  | crd ch off =>
    simp only [exec, execCrd] at h
    split at h
    · cases h; simpa using ControlStep.same _
    split at h
    · cases h; simpa using ControlStep.same _
    split at h <;> cases h <;> simpa using ControlStep.same _
  | cwr ch off dw =>
    simp only [exec, execCwr] at h
    split at h
    · cases h; simpa using ControlStep.same _
    split at h
    · cases h; simpa using ControlStep.same _
    split at h <;> cases h <;> simpa using ControlStep.same _
  | evt tc =>
    simp only [exec, execEvt] at h
    split at h <;> cases h
    · next he =>
      rw [respond_control]
      unfold applyEvent post
      by_cases ha : s.stopArm = true
      · simpa [State.control, ha] using ControlStep.halt s.control tc he ha
      · simp only [Bool.not_eq_true] at ha
        simpa [State.control, ha] using ControlStep.event s.control tc he ha
    · simpa using ControlStep.same _
  | ewr ch half off dw =>
    simp only [exec, execEwr] at h
    split at h
    · cases h; simpa using ControlStep.same _
    split at h
    · cases h; simpa using ControlStep.same _
    split at h <;> cases h <;> simpa using ControlStep.same _
  | erd ch half off =>
    simp only [exec, execErd] at h
    split at h
    · cases h; simpa using ControlStep.same _
    split at h
    · cases h; simpa using ControlStep.same _
    split at h <;> cases h <;> simpa using ControlStep.same _

/-- The delivery step's effect on the control state. -/
theorem deliveryStep_control (s : State) : ControlStep s.control (deliveryStep s).control := by
  unfold deliveryStep
  split
  · exact .same _
  · next tmo hp =>
    split
    · next hf =>
      rw [deliverBlock_control]
      exact ControlStep.deliver s.control hf (.inr (by simp [State.control, hp]))
    · exact .same _

/-- The TAKE timeout step's effect on the control state. -/
theorem takeTimeoutStep_control (s : State) : ControlStep s.control (takeTimeoutStep s).control := by
  unfold takeTimeoutStep
  split
  · exact .same _
  · next tmo hp =>
    split
    · next hf =>
      simp only [Bool.and_eq_true, Bool.not_eq_true'] at hf
      simpa [State.control] using ControlStep.takeTimeout s.control (by simp [State.control, hp]) hf.2
    · exact .same _

/-- The finish step's effect on the control state. -/
theorem finishStep_control (s : State) : ControlStep s.control (finishStep s).control := by
  unfold finishStep
  split
  · exact .same _
  · split
    · next hd => rw [finishDrain_control]; exact ControlStep.finish s.control hd
    · exact .same _

/-- The WDRAIN timeout step's effect on the control state. -/
theorem drainTimeoutStep_control (s : State) : ControlStep s.control (drainTimeoutStep s).control := by
  unfold drainTimeoutStep
  split
  · exact .same _
  · next tmo hp =>
    split
    · next hf =>
      simp only [Bool.and_eq_true, Bool.not_eq_true'] at hf
      simpa [State.control] using ControlStep.drainTimeout s.control (by simp [State.control, hp]) hf.2
    · exact .same _

/-- Taking a command changes the control state in one of the listed ways. -/
theorem takeCommand_control {p : Port} {s t : State} (h : takeCommand p s = .next t) : ControlStep s.control t.control := by
  rcases takeCommand_cases h with rfl | ⟨cw, dw, _, _, hr⟩
  · exact .same _
  · rcases runCommand_cases hr with ⟨i, _, hi⟩ | ⟨_, rfl⟩
    · exact exec_control hi
    · simpa using ControlStep.same _

/-- A command an agent issues and runs changes the control state in one of the listed ways. -/
theorem issued_control {p : Port} {i : Instr} {s t : State} (h : takeCommand p (issue i s) = .next t) :
    ControlStep s.control t.control := by
  have h1 := takeCommand_control h
  rwa [issue_control] at h1

/-- Every step changes the control state in one of the listed ways. -/
theorem step_control {s t : State} (h : step s = .next t) : ControlStep s.control t.control := by
  rcases step_cases h with ⟨_, rfl⟩ | ⟨u, us, _, hu⟩
  · exact .same _
  rw [← setSched_control s us]
  rcases runTurn_cases hu with ⟨p, _, hp⟩ | ⟨_, rfl⟩ | ⟨_, rfl⟩ | ⟨_, rfl⟩ | ⟨_, rfl⟩ | ⟨m, _, hm⟩ | ⟨m, _, hm⟩
  · exact takeCommand_control hp
  · exact deliveryStep_control (s.setSched us)
  · exact takeTimeoutStep_control (s.setSched us)
  · exact finishStep_control (s.setSched us)
  · exact drainTimeoutStep_control (s.setSched us)
  · rcases engineMove_cases hm with rfl | ⟨_, _, ⟨ch, dw, _, ht⟩ | ⟨ch, _, ht⟩ | ht⟩
    · exact .same _
    all_goals simpa using issued_control ht
  · rcases consumerMove_cases hm with rfl | ⟨_, _, ⟨_, ht⟩ | ⟨_, _, _, _, ht⟩ | ⟨_, _, _, _, _, ht⟩ | ⟨_, ht⟩⟩
    · exact .same _
    all_goals simpa using issued_control ht

end Sys2Proof.Machine
end

