-- ==== Sys2Proof/Laws/PerInstr.lean ====
section
/-! SUPPORT. What holds of every command as syntax, one lemma per constructor.
Family `Words`: the table row of the command (30_encoding.md R70 to R72): its OP field, its fixed bits, its port and its length. -/

namespace Sys2Proof.Laws.Words

/-- The command's word carries its opcode and its format's fixed bits, its port accepts that opcode value, and it has a data word
exactly when its OP is 0xB or 0xD. -/
def Statement (i : Instr) : Prop :=
  opField i.cw = i.opcode.bits ∧
  i.cw &&& i.opcode.format.mask = i.opcode.pattern ∧
  i.port = (if i.opcode.bits.toNat ≤ 0x7 then .host else if i.opcode.bits.toNat ≤ 0xB then .consumer else .engine) ∧
  (i.dw.isSome = true ↔ i.opcode.bits.toNat = 0xB ∨ i.opcode.bits.toNat = 0xD) ∧
  (encode i).length = if i.dw.isSome then 2 else 1

theorem init : Statement .init := ⟨opField_cw _, cw_fixed _, rfl, by decide, rfl⟩

theorem start : Statement .start := ⟨opField_cw _, cw_fixed _, rfl, by decide, rfl⟩

theorem stop : Statement .stop := ⟨opField_cw _, cw_fixed _, rfl, by decide, rfl⟩

theorem wdrain (tmo : BitVec 24) : Statement (.wdrain tmo) := ⟨opField_cw _, cw_fixed _, rfl, by simp [Instr.dw, Instr.opcode, Opcode.bits], rfl⟩

theorem reconf (rate : BitVec 20) (size : BitVec 6) : Statement (.reconf rate size) :=
  ⟨opField_cw _, cw_fixed _, rfl, by simp [Instr.dw, Instr.opcode, Opcode.bits], rfl⟩

theorem stat (sel : Bool) : Statement (.stat sel) := ⟨opField_cw _, cw_fixed _, rfl, by simp [Instr.dw, Instr.opcode, Opcode.bits], rfl⟩

theorem bufrd (dir : Dir) (ch : Channel) (half : Bool) (off : BitVec 16) : Statement (.bufrd dir ch half off) :=
  ⟨opField_cw _, cw_fixed _, rfl, by simp [Instr.dw, Instr.opcode, Opcode.bits], rfl⟩

theorem take (tmo : BitVec 24) : Statement (.take tmo) := ⟨opField_cw _, cw_fixed _, rfl, by simp [Instr.dw, Instr.opcode, Opcode.bits], rfl⟩

theorem done : Statement .done := ⟨opField_cw _, cw_fixed _, rfl, by decide, rfl⟩

theorem crd (ch : Channel) (off : BitVec 16) : Statement (.crd ch off) :=
  ⟨opField_cw _, cw_fixed _, rfl, by simp [Instr.dw, Instr.opcode, Opcode.bits], rfl⟩

theorem cwr (ch : Channel) (off : BitVec 16) (dw : Word) : Statement (.cwr ch off dw) :=
  ⟨opField_cw _, cw_fixed _, rfl, by simp [Instr.dw, Instr.opcode, Opcode.bits], rfl⟩

theorem evt (tc : Bool) : Statement (.evt tc) := ⟨opField_cw _, cw_fixed _, rfl, by simp [Instr.dw, Instr.opcode, Opcode.bits], rfl⟩

theorem ewr (ch : Channel) (half : Bool) (off : BitVec 16) (dw : Word) : Statement (.ewr ch half off dw) :=
  ⟨opField_cw _, cw_fixed _, rfl, by simp [Instr.dw, Instr.opcode, Opcode.bits], rfl⟩

theorem erd (ch : Channel) (half : Bool) (off : BitVec 16) : Statement (.erd ch half off) :=
  ⟨opField_cw _, cw_fixed _, rfl, by simp [Instr.dw, Instr.opcode, Opcode.bits], rfl⟩

end Sys2Proof.Laws.Words
end

