-- ==== Sys2Proof/Laws/Reserved.lean ====
section
/-! SUPPORT. A word that carries an opcode and a reserved bit is refused on the port of that opcode (30_encoding.md R83 item 3). -/

namespace Sys2Proof.Machine

/-- The OP field of a word whose top four bits are an opcode's pattern. -/
theorem opField_of_pattern {op : Opcode} {cw : Word} (h : cw &&& 0xF0000000#32 = op.pattern) : opField cw = op.bits := by
  apply BitVec.eq_of_getLsbD_eq
  intro k hk
  have := congrArg (fun x => x.getLsbD (28 + k)) h
  revert this
  cases op <;> interval_cases k <;> simp [opField, Opcode.pattern, Opcode.bits]

theorem reservedBitIllegal (op : Opcode) : ReservedBitIllegal op.port op.pattern op.format.mask := by
  intro c cw dw h1 h2
  simp [decode, opField_of_pattern h1, h2]

end Sys2Proof.Machine
end

