-- ==== Sys2Proof/Laws/Responses.lean ====
section
/-! SUPPORT. The bits of the response data: the images of 10_state.md R38 and R39, the delivery of 41_ready_signal.md R122, and
the sample of 20_memory.md R55. -/

namespace Sys2Proof.Machine

/-- Each bit of STATUS_IMAGE is the field 10_state.md R38 puts there; bits 14 and up are 0. -/
theorem statusImage_getLsbD (s : State) (k : Nat) :
    (statusImage s).getLsbD k =
      if k < 2 then s.state.code.getLsbD k
      else
        match k with
        | 2 => s.bufIdx
        | 3 => s.slot.full
        | 4 => s.slot.idx
        | 5 => s.slot.final
        | 6 => s.held.valid
        | 7 => s.held.idx
        | 8 => s.held.final
        | 9 => s.engEn
        | 10 => s.stopArm
        | 11 => s.drainDone
        | 12 => s.initd
        | 13 => s.xportEn
        | _ => false := by
  unfold statusImage
  change BitVec.getLsbD (w := 18+1+1+1+1+1+1+1+1+1+1+1+1+2) _ k = _
  simp only [BitVec.getLsbD_append, BitVec.getLsbD_ofBool]
  by_cases h : k < 2
  · simp [h]
  by_cases h14 : k < 14
  · interval_cases k <;> simp at h ⊢
  · rw [show k = (k - 14) + 14 by omega]
    simp

/-- RATE in bits 19..0, SIZE in bits 25..20, 0 above (10_state.md R39). -/
theorem paramsImage_getLsbD (s : State) (k : Nat) :
    (paramsImage s).getLsbD k = if k < 20 then s.rate.getLsbD k else s.size.getLsbD (k - 20) := by
  simp only [paramsImage, BitVec.getLsbD_setWidth, BitVec.getLsbD_append]
  split
  · simp; omega
  · by_cases h : k < 32
    · simp [h]
    · simp only [h, decide_false, Bool.false_and]
      rw [BitVec.getLsbD_of_ge]
      omega

/-- FINAL is bit 1 and IDX bit 0 of a delivery's DATA (41_ready_signal.md R122). -/
theorem takeData_eq (final idx : Bool) : takeData final idx = bit32 final <<< 1 ||| bit32 idx := by
  cases final <;> cases idx <;> decide

/-- A sample is the data word modulo 2^SW (20_memory.md R55). -/
theorem sampleOf_toNat (c : Config) (dw : Word) : (sampleOf c dw).toNat = dw.toNat % 2 ^ c.sw := by
  have h : dw.toNat % 2 ^ c.sw < 2 ^ 32 := lt_of_le_of_lt (Nat.mod_le _ _) dw.isLt
  simp only [sampleOf, BitVec.toNat_setWidth]
  exact Nat.mod_eq_of_lt h

/-- A draw is an SW-bit value (20_memory.md R54). -/
theorem drawnSample_lt (s : State) : (drawnSample s).toNat < 2 ^ s.cfg.sw := sampleOf_lt _ _

end Sys2Proof.Machine
end

