-- ==== Sys2Proof/Tests/Slice0.lean ====
section
/-! SUPPORT. The model's own tests: expected words, responses and states are those of spec/30_encoding.md R89 and
spec/95_test_vectors.md (the vector's id stands in the docstring); and a witness for each statement that has hypotheses. -/

namespace Sys2Proof.Tests

open Sys2Proof.Machine

/-! ## States of the vectors (95_test_vectors.md section 0) -/

/-- P_NS = n + 1; r0 = 44100, s0 = 20. -/
def cfgOf (n : Fin 65536) (b : BytesPerSample) : Config :=
  { nsPred := n, bps := b, resetRate := 44100#20, resetSize := 20#6 }

/-- P_NS = 1, P_BPS = 2. -/
def cfg : Config := cfgOf 0 .two

/-- reset -/
def fresh : State := State.resetOf cfg

/-- I -/
def inited : State := { fresh with initd := true }

/-- S -/
def streaming : State := { inited with state := .streaming, engEn := true, xportEn := true }

/-- C-5's end -/
def stopping : State := { streaming with state := .stopRequested, stopArm := true }

/-- E8's end -/
def draining : State :=
  { stopping with state := .draining, engEn := false, bufIdx := false, slot := ⟨true, false, true⟩ }

/-- S with block 0 posted and taken: E5, then TAKE -/
def holding : State := { streaming with bufIdx := false, slot := ⟨false, false, false⟩, held := ⟨true, false, false, false⟩ }

/-- E7's end: the held block is overrun -/
def overrun : State := { holding with bufIdx := true, slot := ⟨true, true, false⟩, held := ⟨true, false, false, true⟩ }

/-- Draining, the final block released -/
def drained : State := { draining with slot := ⟨false, false, true⟩, held := ⟨false, false, true, false⟩, drainDone := true }

/-- The next state, and `fresh` where there is none. -/
def after : Result → State
  | .next s => s
  | _ => fresh

/-- The state whose next step takes one command on port `p`. -/
def ready (p : Port) (words : List Word) (s : State) : State := { s.setPort p ⟨0, words⟩ with sched := [.command p] }

/-- One step that takes a command on port `p`. -/
def send (p : Port) (words : List Word) (s : State) : State := after (step (ready p words s))

/-- One step of a completion. -/
def turn (u : Turn) (s : State) : State := after (step { s with sched := [u] })

/-- STS and DATA of the last command record. -/
def response (s : State) : Option (Status × Word) :=
  match s.hist.getLast? with
  | some (.command r) => some (r.sts, r.data)
  | _ => none

/-! ## Well-formedness: each OFF is checked against P_NS -/

theorem test_wf_bufrd : (Instr.bufrd .input .left false 1#16).wf cfg = false := by decide
theorem test_wf_crd : (Instr.crd .left 1#16).wf cfg = false := by decide
theorem test_wf_cwr : (Instr.cwr .left 1#16 0#32).wf cfg = false := by decide
theorem test_wf_ewr : (Instr.ewr .left false 1#16 0#32).wf cfg = false := by decide
theorem test_wf_erd : (Instr.erd .left false 1#16).wf cfg = false := by decide
theorem test_wf_last : (Instr.erd .left false 0#16).wf cfg = true := by decide
theorem test_wf_largest_block : (Instr.erd .left false 0xFFFF#16).wf (cfgOf 65535 .four) = true := by decide

/-! ## Decoding: one word per command, from R89 (and the formats R74 to R81 for a second value of each bit) -/

/-- P_NS = 8. -/
def cfg8 : Config := cfgOf 7 .two

theorem test_decode_init : decode cfg8 .host 0x10000000#32 0#32 = .ok .init := by rfl
theorem test_decode_start : decode cfg8 .host 0x20000000#32 0#32 = .ok .start := by rfl
theorem test_decode_stop : decode cfg8 .host 0x30000000#32 0#32 = .ok .stop := by rfl
theorem test_decode_wdrain : decode cfg8 .host 0x40000064#32 0#32 = .ok (.wdrain 100#24) := by rfl
theorem test_decode_reconf : decode cfg8 .host 0x51807D00#32 0#32 = .ok (.reconf 32000#20 24#6) := by rfl
theorem test_decode_stat : decode cfg8 .host 0x60000001#32 0#32 = .ok (.stat true) := by rfl
theorem test_decode_bufrd : decode cfg8 .host 0x7E000002#32 0#32 = .ok (.bufrd .output .right true 2#16) := by rfl
theorem test_decode_bufrd_in : decode cfg8 .host 0x76000000#32 0#32 = .ok (.bufrd .input .right true 0#16) := by rfl
theorem test_decode_take : decode cfg8 .consumer 0x80FFFFFF#32 0#32 = .ok (.take 0xFFFFFF#24) := by rfl
theorem test_decode_done : decode cfg8 .consumer 0x90000000#32 0#32 = .ok .done := by rfl
theorem test_decode_crd : decode cfg8 .consumer 0xA4000005#32 0#32 = .ok (.crd .right 5#16) := by rfl
theorem test_decode_cwr : decode cfg8 .consumer 0xB0000000#32 0x1234#32 = .ok (.cwr .left 0#16 0x1234#32) := by rfl
theorem test_decode_evt : decode cfg8 .engine 0xC0000001#32 0#32 = .ok (.evt true) := by rfl
theorem test_decode_ewr : decode cfg8 .engine 0xD6000003#32 7#32 = .ok (.ewr .right true 3#16 7#32) := by rfl
theorem test_decode_erd : decode cfg8 .engine 0xE2000000#32 0#32 = .ok (.erd .left true 0#16) := by rfl

/-- X-1, X-2, X-3, X-5, X-6, X-7, X-9, E11, E15, D-3, C-16, P-12: what the decoder refuses, and why. -/
theorem test_decode_illegal :
    decode cfg .host 0x00000000#32 0#32 = .error .reservedOpcode ∧
    decode cfg .engine 0xF0000000#32 0#32 = .error .reservedOpcode ∧
    decode cfg .host 0x80000000#32 0#32 = .error .wrongPort ∧
    decode cfg .consumer 0x60000000#32 0#32 = .error .wrongPort ∧
    decode cfg .engine 0x10000000#32 0#32 = .error .wrongPort ∧
    decode cfg .host 0xC0000000#32 0#32 = .error .wrongPort ∧
    decode cfg .host 0x20000001#32 0#32 = .error .reservedBit ∧
    decode cfg .consumer 0xA8000000#32 0#32 = .error .reservedBit ∧
    decode cfg .host 0x60000002#32 0#32 = .error .reservedBit ∧
    decode cfg .host 0x54000000#32 0#32 = .error .reservedBit ∧
    decode cfg .consumer 0xB2000000#32 0#32 = .error .reservedBit ∧
    decode cfg .engine 0xD0000001#32 5#32 = .error .offsetRange := by
  refine ⟨?_, ?_, ?_, ?_, ?_, ?_, ?_, ?_, ?_, ?_, ?_, ?_⟩ <;> rfl

/-- The words of a two-word command, numbered as the opcode table numbers them: DW is bits 63..32. -/
theorem test_table_word :
    decodeTableWord 64 0x00000007D6000003 = some (.ewr .right true 3#16 7#32) ∧
    decodeTableWord 32 0x7E000002 = some (.bufrd .output .right true 2#16) ∧
    decodeTableWord 32 0x20000001 = none := by decide

theorem test_encode :
    encode (.cwr .right 5#16 0x1234#32) = [0xB4000005#32, 0x1234#32] ∧
    encode (.bufrd .output .right true 2#16) = [0x7E000002#32] := by decide

/-! ## One step each -/

/-- W: the first step after reset runs the fetched word: INIT answers OK and STATUS reads 0x00001004. -/
theorem test_first_step_after_reset :
    statusImage (after (step (State.reset.withFetchWord 32 0x10000000))) = 0x1004#32 := by decide

/-- On any port a two-word command takes both words (X-4). -/
theorem test_illegal_takes_both_words :
    response (send .host [0xB0000000#32, 9#32, 0x60000000#32] fresh) = some (.illegal, 0#32) ∧
    (send .host [0xB0000000#32, 9#32, 0x60000000#32] fresh).portH = ⟨1, [0x60000000#32]⟩ := by decide

/-- E1 -/
theorem test_init :
    (send .host [0x10000000#32] fresh).hist =
      [.output .engCfg, .command ⟨.host, 0x10000000#32, none, .ok, 0#32, false⟩] ∧
    statusImage (send .host [0x10000000#32] fresh) = 0x1004#32 := by decide

/-- E2 -/
theorem test_init_once :
    response (send .host [0x10000000#32] inited) = some (.invalidState, 0#32) ∧
    statusImage (send .host [0x10000000#32] inited) = 0x1004#32 := by decide

/-- E7 -/
theorem test_evt :
    response (send .engine [0xC0000001#32] holding) = some (.ok, 1#32) ∧
    (send .engine [0xC0000001#32] holding).held = ⟨true, false, false, true⟩ ∧
    statusImage (send .engine [0xC0000001#32] holding) = 0x325D#32 := by decide

/-- E8 and E4 -/
theorem test_evt_halts :
    statusImage (send .engine [0xC0000000#32] stopping) = 0x342B#32 ∧
    response (send .engine [0xC0000001#32] inited) = some (.ok, 0#32) ∧
    statusImage (send .engine [0xC0000001#32] inited) = 0x1004#32 := by decide

/-- E16 and E17 -/
theorem test_ewr :
    (send .engine [0xD0000000#32, 0xABCD1234#32] streaming).bufWord .input .left false 0#16 = some 0x1234#32 ∧
    response (send .engine [0xD1000000#32, 0#32] streaming) = some (.illegal, 0#32) := by decide

/-- E13 and E14: MF3 before MF2. -/
theorem test_ewr_faults :
    (send .engine [0xD2000000#32, 5#32] streaming).faults = ⟨false, true, false⟩ ∧
    (send .engine [0xD2000000#32, 5#32] inited).faults = ⟨false, false, true⟩ ∧
    (send .engine [0xD2000000#32, 5#32] streaming).hist = [] := by decide

/-- E19 -/
theorem test_erd :
    response (send .engine [0xE0000000#32] { streaming with buf := [(4, 0x8001#32)] }) = some (.ok, 0x8001#32) := by decide

/-- E20, and E18: an UNDEF word is a draw, logged as one. -/
theorem test_erd_fault_and_draw :
    (send .engine [0xE6000000#32] streaming).faults = ⟨false, true, false⟩ ∧
    (send .engine [0xE0000000#32] streaming).draws = 1 := by decide

/-- T2 and T7 -/
theorem test_take :
    response (send .consumer [0x80000000#32] { streaming with slot := ⟨true, true, false⟩ }) = some (.ok, 1#32) ∧
    (send .consumer [0x80000000#32] { streaming with slot := ⟨true, true, false⟩ }).held = ⟨true, true, false, false⟩ ∧
    response (send .consumer [0x80FFFFFF#32] { draining with slot := ⟨true, true, true⟩ }) = some (.ok, 3#32) := by decide

/-- T4, T4b, T6a: the pend, the delivery and the timeout. -/
theorem test_take_pends :
    (send .consumer [0x80FFFFFF#32] streaming).pendC = some 0xFFFFFF#24 ∧
    response (turn .deliver { streaming with pendC := some 0xFFFFFF#24, slot := ⟨true, false, false⟩ }) = some (.ok, 0#32) ∧
    response (turn .takeTimeout { streaming with pendC := some 100#24 }) = some (.timeout, 0#32) ∧
    response (turn .takeTimeout { streaming with pendC := some 0xFFFFFF#24 }) = none := by decide

/-- P-3 -/
theorem test_done_final :
    (send .consumer [0x90000000#32] { draining with held := ⟨true, true, true, false⟩ }).drainDone = true ∧
    (send .consumer [0x90000000#32] { draining with held := ⟨true, true, true, false⟩ }).held.valid = false := by decide

/-- P-4 and P-1 -/
theorem test_done :
    response (send .consumer [0x90000000#32] overrun) = some (.ok, 0#32) ∧
    (send .consumer [0x90000000#32] overrun).drainDone = false ∧
    response (send .consumer [0x90000000#32] streaming) = some (.invalidState, 0#32) := by decide

/-- P-7: in[R][0][5] is flat address 2 * 8 + 5. -/
theorem test_crd :
    response (send .consumer [0xA4000005#32]
      { holding with cfg := cfgOf 7 .three, buf := [(21, 0x00ABCDEF#32)] }) = some (.ok, 0x00ABCDEF#32) := by decide

/-- P-8 and P-6: the range check comes before the state check. -/
theorem test_crd_fault_and_range :
    (send .consumer [0xA0000000#32] overrun).faults = ⟨true, false, false⟩ ∧
    response (send .consumer [0xA0000001#32] streaming) = some (.illegal, 0#32) := by decide

/-- P-9 and P-10 -/
theorem test_cwr :
    (send .consumer [0xB0000000#32, 0x1FF#32]
      { holding with cfg := cfgOf 0 .one, held := ⟨true, true, false, false⟩ }).bufWord .output .left true 0#16 = some 0xFF#32 ∧
    (send .consumer [0xB0000000#32, 0xFFFF8000#32]
      { holding with held := ⟨true, true, false, false⟩ }).buf = [(5, 0x8000#32)] := by decide

/-- P-11 -/
theorem test_cwr_fault :
    (send .consumer [0xB4000000#32, 1#32] { holding with held := ⟨true, true, false, true⟩ }).faults = ⟨true, false, false⟩ := by
  decide

/-- C-2 and C-17 -/
theorem test_start :
    statusImage (send .host [0x20000000#32] inited) = 0x3205#32 ∧
    (send .host [0x20000000#32] inited).hist.head? = some (.output .xportClrFlags) ∧
    (send .host [0x20000000#32] { drained with state := .idle, drainDone := false }).stopArm = false := by decide

/-- C-1 and C-3 -/
theorem test_start_refused :
    response (send .host [0x20000000#32] fresh) = some (.invalidState, 0#32) ∧
    response (send .host [0x20000000#32] streaming) = some (.invalidState, 0#32) := by decide

/-- C-5 and C-6 -/
theorem test_stop :
    statusImage (send .host [0x30000000#32] streaming) = 0x3606#32 ∧
    response (send .host [0x30000000#32] stopping) = some (.invalidState, 0#32) := by decide

/-- C-10, C-8 and C-9 -/
theorem test_wdrain :
    (send .host [0x40FFFFFF#32] drained).state = .idle ∧
    (send .host [0x40FFFFFF#32] drained).drainDone = false ∧
    response (send .host [0x40FFFFFF#32] streaming) = some (.invalidState, 0#32) ∧
    response (send .host [0x40000000#32] stopping) = some (.timeout, 0#32) := by decide

/-- C-11: the pend, the finish and the timeout. -/
theorem test_wdrain_pends :
    (send .host [0x40000064#32] draining).pendH = some 100#24 ∧
    (turn .finish { drained with pendH := some 100#24 }).state = .idle ∧
    response (turn .drainTimeout { draining with pendH := some 100#24 }) = some (.timeout, 0#32) ∧
    response (turn .drainTimeout { drained with pendH := some 100#24 }) = none := by decide

/-- C-12 and C-15 -/
theorem test_reconf :
    (send .host [0x51807D00#32] fresh).hist.head? = some (.output (.xportCfg 32000#20 24#6)) ∧
    paramsImage (send .host [0x53FFFFFF#32] fresh) = 0x03FFFFFF#32 := by decide

/-- C-13 -/
theorem test_reconf_refused :
    response (send .host [0x51807D00#32] streaming) = some (.invalidState, 0#32) ∧
    (send .host [0x51807D00#32] streaming).rate = 44100#20 := by decide

/-- D-1, and the image of P3 step 29. -/
theorem test_stat :
    response (send .host [0x60000000#32] fresh) = some (.ok, 4#32) ∧
    response (send .host [0x60000000#32]
      { drained with state := .idle, drainDone := false, bufIdx := true, slot := ⟨false, true, true⟩, held := ⟨false, true, true, false⟩ })
      = some (.ok, 0x35B4#32) := by decide

/-- D-2 -/
theorem test_stat_params :
    response (send .host [0x60000001#32] { fresh with rate := 32000#20, size := 24#6 }) = some (.ok, 0x01807D00#32) := by decide

/-- D-8: out[R][1][2] is flat address 7 * 4 + 2. -/
theorem test_bufrd :
    response (send .host [0x7E000002#32] { fresh with cfg := cfgOf 3 .two, buf := [(30, 0x55#32)] }) = some (.ok, 0x55#32) := by
  decide

/-- D-4 and D-6 -/
theorem test_bufrd_refused :
    response (send .host [0x70000000#32] streaming) = some (.invalidState, 0#32) ∧
    response (send .host [0x70000001#32] streaming) = some (.illegal, 0#32) := by decide

/-- C-18 -/
theorem test_pending_port : send .host [0x60000000#32] { stopping with pendH := some 0xFFFFFF#24 } =
    { stopping with pendH := some 0xFFFFFF#24, portH := ⟨0, [0x60000000#32]⟩ } := by decide

/-! ## Witnesses: states and operands that meet the hypotheses of the statements, clause by clause -/

/-- The largest block: P_NS = 65536. -/
def cfgMax : Config := cfgOf 65535 .four

theorem coherent_holding : Coherent holding := by
  constructor
  · constructor <;> decide
  all_goals decide

theorem coherent_streaming : Coherent streaming := by
  constructor
  · constructor <;> decide
  all_goals decide

/-- StopRequested with an outstanding WDRAIN and a full SLOT. -/
def stoppingPosted : State := { stopping with pendH := some 100#24, slot := ⟨true, true, false⟩ }

theorem coherent_stoppingPosted : Coherent stoppingPosted := by
  constructor
  · constructor <;> decide
  all_goals decide

theorem coherent_drained : Coherent drained := by
  constructor
  · constructor <;> decide
  all_goals decide

theorem coherent_fresh : Coherent fresh := by
  constructor
  · constructor <;> decide
  all_goals decide

theorem coherent_inited : Coherent inited := by
  constructor
  · constructor <;> decide
  all_goals decide

/-- A word with a reserved bit, for each opcode with reserved bits: the last clause of each command's statement. -/
theorem witness_reserved_bits :
    (0x10000001#32 &&& 0xF0000000#32 = 0x10000000#32 ∧ 0x10000001#32 &&& 0xFFFFFFFF#32 ≠ 0x10000000#32) ∧
    (0x28000000#32 &&& 0xF0000000#32 = 0x20000000#32 ∧ 0x28000000#32 &&& 0xFFFFFFFF#32 ≠ 0x20000000#32) ∧
    (0x30000001#32 &&& 0xF0000000#32 = 0x30000000#32 ∧ 0x30000001#32 &&& 0xFFFFFFFF#32 ≠ 0x30000000#32) ∧
    (0x41000000#32 &&& 0xF0000000#32 = 0x40000000#32 ∧ 0x41000000#32 &&& 0xFF000000#32 ≠ 0x40000000#32) ∧
    (0x54000000#32 &&& 0xF0000000#32 = 0x50000000#32 ∧ 0x54000000#32 &&& 0xFC000000#32 ≠ 0x50000000#32) ∧
    (0x60000002#32 &&& 0xF0000000#32 = 0x60000000#32 ∧ 0x60000002#32 &&& 0xFFFFFFFE#32 ≠ 0x60000000#32) ∧
    (0x71000000#32 &&& 0xF0000000#32 = 0x70000000#32 ∧ 0x71000000#32 &&& 0xF1FF0000#32 ≠ 0x70000000#32) ∧
    (0x88000000#32 &&& 0xF0000000#32 = 0x80000000#32 ∧ 0x88000000#32 &&& 0xFF000000#32 ≠ 0x80000000#32) ∧
    (0x90000001#32 &&& 0xF0000000#32 = 0x90000000#32 ∧ 0x90000001#32 &&& 0xFFFFFFFF#32 ≠ 0x90000000#32) ∧
    (0xA8000000#32 &&& 0xF0000000#32 = 0xA0000000#32 ∧ 0xA8000000#32 &&& 0xFBFF0000#32 ≠ 0xA0000000#32) ∧
    (0xB2000000#32 &&& 0xF0000000#32 = 0xB0000000#32 ∧ 0xB2000000#32 &&& 0xFBFF0000#32 ≠ 0xB0000000#32) ∧
    (0xC0000002#32 &&& 0xF0000000#32 = 0xC0000000#32 ∧ 0xC0000002#32 &&& 0xFFFFFFFE#32 ≠ 0xC0000000#32) ∧
    (0xD1000000#32 &&& 0xF0000000#32 = 0xD0000000#32 ∧ 0xD1000000#32 &&& 0xF9FF0000#32 ≠ 0xD0000000#32) ∧
    (0xE0010000#32 &&& 0xF0000000#32 = 0xE0000000#32 ∧ 0xE0010000#32 &&& 0xF9FF0000#32 ≠ 0xE0000000#32) := by decide

theorem witness_DecodeOfEncodeIsTheCommand :
    (Instr.cwr .right 0xFFFF#16 0xFFFFFFFF#32).wf cfgMax = true ∧ (Instr.erd .left true 0#16).wf cfg = true := by decide

theorem witness_EncodeOfDecodeIsTheWords :
    decode cfgMax .consumer 0xB400FFFF#32 0xFFFFFFFF#32 = .ok (.cwr .right 0xFFFF#16 0xFFFFFFFF#32) := by rfl

theorem witness_EncodingExamplesDecode : 5 < (cfgOf 5 .one).ns := by decide

/-- Each of the four causes, and a word with none. -/
theorem witness_DecoderRefusesExactlyTheIllegalWords :
    IllegalWord cfg .host 0x00000000#32 ∧ IllegalWord cfg .consumer 0xF0000000#32 ∧ IllegalWord cfg .consumer 0x70000000#32 ∧
    IllegalWord cfg .host 0x70010000#32 ∧ IllegalWord cfg .host 0x70000001#32 ∧ ¬ IllegalWord cfg .host 0x70000000#32 := by
  simp only [IllegalWord]
  decide

theorem witness_IllegalCommandOnlyCompletes :
    (ready .host [0xB0000000#32, 9#32] fresh).pending .host = none ∧
    nextCommand ((ready .host [0xB0000000#32, 9#32] fresh).port .host).stream = some (0xB0000000#32, some 9#32) ∧
    IllegalWord fresh.cfg .host 0xB0000000#32 := by
  simp only [IllegalWord]
  decide

theorem witness_CommandLengthIsFixedByOp :
    ((0xB0000000#32 : Word).extractLsb' 28 4).toNat = 0xB ∧ ((0xD0000000#32 : Word).extractLsb' 28 4).toNat = 0xD ∧
    ((0xC0000000#32 : Word).extractLsb' 28 4).toNat ≠ 0xB ∧ ((0xC0000000#32 : Word).extractLsb' 28 4).toNat ≠ 0xD := by decide

theorem witness_StepRunsTheDecodedCommand :
    (ready .engine [0xD0000000#32, 5#32] streaming).sched = [.command .engine] ∧
    (ready .engine [0xD0000000#32, 5#32] streaming).pending .engine = none ∧
    nextCommand ((ready .engine [0xD0000000#32, 5#32] streaming).port .engine).stream = some (0xD0000000#32, some 5#32) ∧
    decode cfg .engine 0xD0000000#32 5#32 = .ok (.ewr .left false 0#16 5#32) :=
  ⟨rfl, rfl, rfl, rfl⟩

theorem witness_PendingPortTakesNoCommand :
    stoppingPosted.pending .host ≠ none ∧ ({ streaming with pendC := some 1#24 } : State).pending .consumer ≠ none := by decide

theorem witness_DisabledTurnChangesNothing :
    turnEnabled .deliver streaming = false ∧ turnEnabled .finish stopping = false ∧
    turnEnabled .takeTimeout { streaming with pendC := some 0xFFFFFF#24 } = false ∧
    turnEnabled .drainTimeout { drained with pendH := some 100#24 } = false ∧
    turnEnabled (.command .host) fresh = false ∧ turnEnabled (.engine .event) streaming = false ∧
    turnEnabled (.consumer .release) streaming = false := by decide

theorem witness_EnabledTurnDoesSomething :
    turnEnabled (.command .host) (ready .host [0x10000000#32] fresh) = true ∧
    turnEnabled .deliver { streaming with pendC := some 1#24, slot := ⟨true, true, false⟩ } = true ∧
    turnEnabled .takeTimeout { streaming with pendC := some 0xFFFFFE#24 } = true ∧
    turnEnabled .finish { drained with pendH := some 0xFFFFFF#24 } = true ∧
    turnEnabled .drainTimeout { draining with pendH := some 1#24 } = true ∧
    turnEnabled (.engine (.write .left)) streaming = true ∧ turnEnabled (.engine (.read .right)) streaming = true ∧
    turnEnabled (.engine .event) { streaming with eng := ⟨false, 1, false, false, false, false⟩ } = true ∧
    turnEnabled (.consumer .take) streaming = true ∧
    turnEnabled (.consumer (.read .right 0#16)) { holding with cons := ⟨.read, []⟩ } = true ∧
    turnEnabled (.consumer (.write .left 0#16 7#32)) { holding with cons := ⟨.write, []⟩ } = true ∧
    turnEnabled (.consumer .release) { holding with cons := ⟨.release, []⟩ } = true := by decide

theorem witness_InitConfiguresTheRingOnce : fresh.initd = false ∧ inited.initd = true := by decide

theorem witness_EventCopiesTcPostsAndHalts :
    (streaming.engEn = true ∧ streaming.stopArm = false) ∧ (stopping.engEn = true ∧ stopping.stopArm = true) ∧
    inited.engEn = false := by decide

/-- The clauses meet at OFF = P_NS, at HALF = BUFIDX and at ENG_EN. -/
theorem witness_EngineWriteStoresOneInputSample :
    ((0#16).toNat < cfg.ns ∧ streaming.engEn = true ∧ false = !streaming.bufIdx) ∧
    cfg.ns ≤ (1#16).toNat ∧
    ((0xFFFF#16).toNat < cfgMax.ns ∧ inited.engEn = false) ∧
    ((0#16).toNat < cfg.ns ∧ streaming.engEn = true ∧ true = streaming.bufIdx) := by decide

theorem witness_EngineReadAnswersOneOutputSample :
    ((0#16).toNat < cfg.ns ∧ streaming.engEn = true ∧ false = !streaming.bufIdx ∧
      ({ streaming with buf := [(4, 0x8001#32)] } : State).bufWord .output .left false 0#16 = some 0x8001#32) ∧
    streaming.bufWord .output .left false 0#16 = none ∧
    cfg.ns ≤ (1#16).toNat ∧ inited.engEn = false ∧ true = streaming.bufIdx := by decide

theorem witness_TakeDeliversPollsOrPends :
    holding.held.valid = true ∧
    (stoppingPosted.held.valid = false ∧ stoppingPosted.slot.full = true) ∧
    (streaming.held.valid = false ∧ streaming.slot.full = false ∧ 0x000001#24 ≠ 0x000000#24) := by decide

theorem witness_OutstandingTakeDeliversOrTimesOut :
    (({ stoppingPosted with pendC := some 0xFFFFFF#24 } : State).pendC = some 0xFFFFFF#24 ∧ stoppingPosted.slot.full = true) ∧
    (streaming.pendC = none ∧ streaming.slot.full = false) ∧
    (0 < (0x000001#24).toNat ∧ (0xFFFFFE#24).toNat < 0xFFFFFF) ∧
    ({ streaming with pendC := some 0xFFFFFE#24 } : State).pendC = some 0xFFFFFE#24 := by decide

theorem witness_DoneReleasesAndSignalsTheFinalBlock :
    (holding.held.valid = true ∧ holding.held.final = false) ∧
    (({ draining with held := ⟨true, false, true, false⟩ } : State).held.final = true ∧ draining.state = .draining) ∧
    streaming.held.valid = false := by decide

theorem witness_ConsumerReadAnswersTheHeldInputBlock :
    ((0#16).toNat < cfg.ns ∧ holding.held.valid = true ∧ holding.held.ovr = false ∧
      ({ holding with buf := [(0, 0x1234#32)] } : State).bufWord .input .left holding.held.idx 0#16 = some 0x1234#32) ∧
    holding.bufWord .input .right holding.held.idx 0#16 = none ∧
    cfg.ns ≤ (1#16).toNat ∧ streaming.held.valid = false ∧ (overrun.held.valid = true ∧ overrun.held.ovr = true) := by decide

theorem witness_ConsumerWriteStoresToTheHeldOutputBlock :
    ((0#16).toNat < cfg.ns ∧ holding.held.valid = true ∧ holding.held.ovr = false) ∧
    cfg.ns ≤ (1#16).toNat ∧ streaming.held.valid = false ∧ (overrun.held.valid = true ∧ overrun.held.ovr = true) := by decide

theorem witness_StartResumesTheEngineFromIdle :
    (inited.state = .idle ∧ inited.initd = true) ∧ streaming.state ≠ .idle ∧ fresh.initd = false := by decide

theorem witness_StopArmsTheBoundaryWithoutWaiting : streaming.state = .streaming ∧ inited.state ≠ .streaming := by decide

theorem witness_DrainWaitFinishesPollsOrPends :
    (inited.state = .idle ∧ streaming.state = .streaming) ∧
    (drained.state = .draining ∧ drained.drainDone = true) ∧
    (stopping.state = .stopRequested ∧ stopping.drainDone = false ∧ 0xFFFFFF#24 ≠ 0x000000#24) := by decide

theorem witness_OutstandingDrainWaitFinishesOrTimesOut :
    (({ drained with pendH := some 1#24 } : State).pendH = some 1#24 ∧ drained.drainDone = true) ∧
    (stopping.pendH = none ∧ stopping.drainDone = false) ∧
    (stoppingPosted.pendH = some 100#24 ∧ 0 < (100#24).toNat ∧ (100#24).toNat < 0xFFFFFF ∧ stoppingPosted.drainDone = false) ∧
    ({ stopping with pendH := some 0xFFFFFF#24 } : State).pendH = some 0xFFFFFF#24 := by decide

theorem witness_ReconfChangesParametersInIdle : fresh.state = .idle ∧ streaming.state ≠ .idle := by decide

theorem witness_DumpReadsOneWordInIdle :
    ((0#16).toNat < cfg.ns ∧ fresh.state = .idle ∧
      ({ fresh with buf := [(7, 5#32)] } : State).bufWord .output .right true 0#16 = some 5#32) ∧
    fresh.bufWord .input .left false 0#16 = none ∧ cfg.ns ≤ (1#16).toNat ∧ streaming.state ≠ .idle := by decide

theorem witness_FlatAddressesAreDistinctAndInRange :
    (0xFFFF#16).toNat < cfgMax.ns ∧ flatAddress cfgMax .output .right true 0xFFFF#16 = 8 * 65536 - 1 ∧
    flatAddress cfg .output .right true 0#16 ≤ 8 * cfg.ns - 1 := by decide

/-- EWR of a whole-width sample, the next step: what a step that writes BUF needs. -/
theorem witness_StepKeepsBufWellFormed :
    (streaming.buf.wf ∧ ∀ cell ∈ streaming.buf, cell.1 < 8 * cfg.ns ∧ cell.2.toNat < 2 ^ cfg.sw) ∧
    step (ready .engine [0xD0000000#32, 0xFFFFFFFF#32] streaming) =
      .next (send .engine [0xD0000000#32, 0xFFFFFFFF#32] streaming) :=
  ⟨by decide, rfl⟩

theorem witness_OnlyOwnersWriteTheirHalf :
    step (ready .engine [0xD0000000#32, 1#32] streaming) = .next (send .engine [0xD0000000#32, 1#32] streaming) ∧
    (send .engine [0xD0000000#32, 1#32] streaming).buf.get 0 ≠ (ready .engine [0xD0000000#32, 1#32] streaming).buf.get 0 ∧
    (send .consumer [0xB0000000#32, 1#32] holding).buf.get 4 ≠ (ready .consumer [0xB0000000#32, 1#32] holding).buf.get 4 :=
  ⟨rfl, by decide, by decide⟩

theorem witness_OwnersNeverShareAHalf :
    Coherent holding ∧ engineMayAccess holding true ∧ consumerMayAccess holding false ∧ Coherent inited ∧ hostMayRead inited :=
  ⟨coherent_holding, ⟨rfl, rfl⟩, ⟨rfl, rfl, rfl⟩, coherent_inited, rfl⟩

/-- A coherent Idle state and a step of it. -/
theorem witness_DumpIsStableInIdle :
    Coherent { inited with sched := [.command .engine] } ∧ inited.state = .idle ∧
    step { inited with sched := [.command .engine] } = .next inited := by
  refine ⟨?_, rfl, rfl⟩
  constructor
  · constructor <;> decide
  all_goals decide

theorem witness_StepKeepsCoherence : Coherent holding ∧ step holding = .next holding := ⟨coherent_holding, rfl⟩

theorem witness_ReachableStatesMeetTheInvariants :
    Reachable cfg (send .host [0x10000000#32] fresh) :=
  .step (.start [0x10000000#32] [] [] [.command .host]) rfl

/-- The four rows of the table, from coherent states. -/
theorem witness_StateMovesOnlyAlongTheTable :
    Coherent inited ∧ (send .host [0x20000000#32] inited).state = .streaming ∧
    Coherent streaming ∧ (send .host [0x30000000#32] streaming).state = .stopRequested ∧
    Coherent stoppingPosted ∧ (send .engine [0xC0000000#32] stoppingPosted).state = .draining ∧
    Coherent drained ∧ (send .host [0x40000000#32] drained).state = .idle :=
  ⟨coherent_inited, by decide, coherent_streaming, by decide, coherent_stoppingPosted, by decide, coherent_drained, by decide⟩

theorem witness_OnlyEventsAndInitWriteBufidx :
    (send .engine [0xC0000000#32] streaming).bufIdx ≠ streaming.bufIdx ∧
    (send .host [0x10000000#32] { fresh with bufIdx := false }).bufIdx ≠ false := by decide

theorem witness_ParametersAreFrozenOutsideIdle :
    (send .host [0x51807D00#32] fresh).rate ≠ fresh.rate ∧ (send .host [0x51807D00#32] fresh).size ≠ fresh.size := by decide

theorem witness_EngineStopsOnlyAtABoundary :
    step (ready .engine [0xC0000000#32] stopping) = .next (send .engine [0xC0000000#32] stopping) ∧
    stopping.engEn = true ∧ (send .engine [0xC0000000#32] stopping).engEn = false := ⟨rfl, rfl, by decide⟩

/-- An EVT after the halt (P3 step 21), and the START that arms the engine again. -/
theorem witness_IndexIsFrozenWhileDisarmed :
    drained.initd = true ∧ drained.engEn = false ∧
    step (ready .engine [0xC0000001#32] drained) = .next (send .engine [0xC0000001#32] drained) ∧
    (send .host [0x20000000#32] inited).engEn = true := ⟨rfl, rfl, rfl, by decide⟩

theorem witness_TakeDeliversTheLatestPost :
    Coherent stoppingPosted ∧ stoppingPosted.held.valid = false ∧ (send .consumer [0x80000000#32] stoppingPosted).held.valid = true :=
  ⟨coherent_stoppingPosted, rfl, by decide⟩

theorem witness_EachPortHasItsOwnPowers :
    exec (.evt false) stopping = .next (after (exec (.evt false) stopping)) ∧
    (after (exec (.evt false) stopping)).state ≠ stopping.state ∧ (Instr.evt false).port ≠ .host ∧
    (Instr.take 0#24).port ≠ .engine ∧ (Instr.start).port ≠ .consumer := ⟨rfl, by decide, by decide, by decide, by decide⟩

theorem witness_InvalidStateExactlyAsTheTable :
    ((Instr.crd .left 0#16).wf streaming.cfg = true ∧ refusedInState (.crd .left 0#16) streaming = true) ∧
    refusedInState (.crd .left 0#16) holding = false ∧ refusedInState (.wdrain 0#24) stopping = false ∧
    refusedInState .start fresh = true := by decide

theorem witness_ModelFaultsExactlyAsTheTable :
    faultOf (.crd .left 0#16) overrun = some .mf1 ∧ faultOf (.ewr .left true 0#16 5#32) streaming = some .mf2 ∧
    faultOf (.ewr .left true 0#16 5#32) inited = some .mf3 ∧ faultOf (.crd .left 1#16) overrun = none ∧
    faultOf (.erd .left false 0#16) streaming = none := by decide

theorem witness_FaultsAreNeverCleared :
    ({ fresh with faults := ⟨false, false, true⟩ } : State).faults.mf3 = true ∧
    ¬ ({ fresh with faults := ⟨false, false, true⟩ } : State).FaultFree ∧ step fresh = .next fresh := by
  refine ⟨rfl, ?_, rfl⟩
  simp only [State.FaultFree]
  decide

/-- A poll, and the timeout step of a finite wait, at both ports. -/
theorem witness_TimeoutOnlyWhileTheConditionIsFalse :
    step (ready .consumer [0x80000000#32] streaming) = .next (send .consumer [0x80000000#32] streaming) ∧
    (send .consumer [0x80000000#32] streaming).hist =
      streaming.hist ++ [.command ⟨.consumer, 0x80000000#32, none, .timeout, 0#32, false⟩] ∧
    (turn .takeTimeout { streaming with pendC := some 0xFFFFFE#24 }).hist =
      streaming.hist ++ [.command ⟨.consumer, 0x80FFFFFE#32, none, .timeout, 0#32, false⟩] ∧
    (send .host [0x40000000#32] stopping).hist =
      stopping.hist ++ [.command ⟨.host, 0x40000000#32, none, .timeout, 0#32, false⟩] ∧
    (turn .drainTimeout { stopping with pendH := some 1#24 }).hist =
      stopping.hist ++ [.command ⟨.host, 0x40000001#32, none, .timeout, 0#32, false⟩] :=
  ⟨rfl, by decide, by decide, by decide, by decide⟩

theorem witness_ErrorResponsesChangeNothing :
    exec .start fresh = .next (after (exec .start fresh)) ∧
    (after (exec .start fresh)).hist = fresh.hist ++ [] ++ [.command ⟨.host, 0x20000000#32, none, .invalidState, 0#32, false⟩] :=
  ⟨rfl, by decide⟩

theorem witness_OneRecordPerCompletedCommand :
    PositionsCountRecords (send .host [0x10000000#32] fresh) ∧
    step (send .host [0x10000000#32] fresh) = .next (send .host [0x10000000#32] fresh) := by
  refine ⟨fun p => ?_, rfl⟩
  cases p <;> decide

theorem witness_OnlyResetClearsInitdAndXportEn :
    streaming.initd = true ∧ streaming.xportEn = true ∧ step streaming = .next streaming := ⟨rfl, rfl, rfl⟩

theorem witness_GhostStateIsInvisible :
    faultOf .done overrun = none ∧
    faultOf .done { overrun with faults := ⟨true, true, false⟩, held := { overrun.held with ovr := false } } = none ∧
    exec .done overrun = .next (after (exec .done overrun)) := ⟨by decide, by decide, rfl⟩

theorem witness_ReferenceEngineKeepsToItsHalf :
    ReferenceEngineOnly { streaming with sched := [.engine (.write .left)] } ∧
    step { streaming with sched := [.engine (.write .left)] } =
      .next (after (step { streaming with sched := [.engine (.write .left)] })) := by
  refine ⟨⟨?_, rfl, by decide⟩, rfl⟩
  constructor
  · constructor <;> decide
  all_goals decide

/-- S at the end of the engine's first period. -/
def periodEnd : State := { streaming with eng := ⟨false, 1, false, false, false, false⟩ }

theorem witness_ReferenceEnginePostsAlternate :
    ReferenceEngineOnly periodEnd ∧ periodEnd.initd = true ∧ turnEnabled (.engine .event) periodEnd = true ∧
    runTurn (.engine .event) periodEnd = .next (after (runTurn (.engine .event) periodEnd)) := by
  refine ⟨⟨?_, rfl, by decide⟩, rfl, by decide, rfl⟩
  constructor
  · constructor <;> decide
  all_goals decide

/-- The three places of the reference consumer: in its loop, in its TAKE, halted by MF1. -/
theorem witness_ReferenceConsumerKeepsTheHandshake :
    ReferenceConsumerOnly streaming ∧
    ReferenceConsumerOnly { streaming with pendC := some 0xFFFFFF#24, portC := ⟨0, [0x80FFFFFF#32]⟩, cons := ⟨.read, []⟩ } ∧
    ReferenceConsumerOnly { overrun with portC := ⟨1, [0xA0000000#32]⟩, cons := ⟨.read, []⟩ } ∧
    step streaming = .next streaming := by
  refine ⟨⟨coherent_streaming, .inl (by decide)⟩, ⟨?_, .inr (.inl (by decide))⟩,
    ⟨?_, .inr (.inr ⟨rfl, rfl, rfl, .left, 0#16, by decide, .inl (by decide)⟩)⟩, rfl⟩
  all_goals
    constructor
    · constructor <;> decide
    all_goals decide

theorem witness_DrainCompletesThroughTheHandshake :
    Coherent stoppingPosted ∧ stoppingPosted.state = .stopRequested ∧ stoppingPosted.held.valid = false ∧
    stoppingPosted.pendH = some 100#24 := ⟨coherent_stoppingPosted, rfl, rfl, rfl⟩

/-- Inside both loops: the engine after one access, the consumer after one read, and after one write. -/
theorem witness_StepKeepsAgentsWithinTheirLoops :
    AgentsWithinTheirLoops { streaming with eng := ⟨false, 0, true, false, false, false⟩, cons := ⟨.read, [(.right, 0#16)]⟩ } ∧
    AgentsWithinTheirLoops { holding with cons := ⟨.write, [(.right, 0#16)]⟩ } ∧ step holding = .next holding :=
  ⟨⟨by decide, by decide, by decide, by decide, fun h => by cases h⟩, ⟨by decide, by decide, by decide, by decide, fun _ => ⟨.right, rfl⟩⟩, rfl⟩

/-- The write loop (42_processor.md R138) on P_NS = 2: after (R, 0) comes (R, 1), and after it (L, 0). -/
theorem test_write_loop_order :
    turnEnabled (.consumer (.write .right 1#16 7#32)) { holding with cfg := cfgOf 1 .two, cons := ⟨.write, []⟩ } = false ∧
    turnEnabled (.consumer (.write .right 1#16 7#32)) { holding with cfg := cfgOf 1 .two, cons := ⟨.write, [(.right, 0#16)]⟩ } = true ∧
    turnEnabled (.consumer (.write .left 0#16 7#32)) { holding with cfg := cfgOf 1 .two, cons := ⟨.write, [(.right, 0#16)]⟩ } = false ∧
    turnEnabled (.consumer (.write .left 0#16 7#32))
      { holding with cfg := cfgOf 1 .two, cons := ⟨.write, [(.right, 1#16), (.right, 0#16)]⟩ } = true := by decide

/-- With the reference engine halted before START, and with a scripted engine. -/
theorem witness_NoStepIsEnabledAtASuccessfulEnd :
    SuccessfulEnd ⟨true, false⟩ inited ∧ SuccessfulEnd ⟨false, false⟩ streaming :=
  ⟨⟨rfl, ⟨rfl, rfl⟩, rfl, ⟨rfl, rfl⟩, ⟨rfl, fun _ => ⟨rfl, fun m => by cases m <;> rfl⟩⟩⟩,
   ⟨rfl, ⟨rfl, rfl⟩, rfl, ⟨rfl, rfl⟩, ⟨rfl, fun h => by cases h⟩⟩⟩

/-- The spec's own case (R222): an indefinite TAKE of the reference consumer with the engine halted. -/
def stuckTake : State := { inited with pendC := some 0xFFFFFF#24, portC := ⟨0, [0x80FFFFFF#32]⟩, cons := ⟨.read, []⟩ }

theorem witness_FailedEndIsAFaultOrAWaitNothingLifts :
    Coherent stuckTake ∧ AgentsWithinTheirLoops stuckTake ∧ FailedEnd ⟨true, true⟩ stuckTake := by
  refine ⟨?_, ⟨by decide, by decide, by decide, by decide, fun h => by cases h⟩, ⟨?_, fun h => by cases h.nothingPends.2⟩⟩
  · constructor
    · constructor <;> decide
    all_goals decide
  · rintro ⟨u, _, hu⟩
    refine hu ?_
    cases u with
    | command p => cases p <;> rfl
    | engine m => cases m <;> rfl
    | consumer m => cases m <;> rfl
    | _ => rfl

/-- A faulted access that only repeats its fault is a failed end too: P5's consumer after step 16. -/
theorem witness_failed_end_by_fault :
    FailedEnd ⟨false, false⟩ { overrun with faults := ⟨true, false, false⟩, portC := ⟨1, [0xB0000000#32, 0xA#32]⟩ } := by
  refine ⟨?_, fun h => by cases h.noFault⟩
  rintro ⟨u, hi, hu⟩
  refine hu ?_
  cases u with
  | command p => cases p <;> rfl
  | engine m => cases hi
  | consumer m => cases hi
  | _ => rfl

end Sys2Proof.Tests
end

section
/-! What a response, an applied EVT, a delivery and a finish leave alone and what they write. -/

namespace Sys2Proof.Machine

@[simp] theorem respond_hist_getLast? (i : Instr) (sts : Status) (data : Word) (s : State) :
    (respond i sts data s).hist.getLast? = some (.command ⟨i.port, i.cw, i.dw, sts, data, false⟩) := by simp

/-! ### applyEvent -/

/-- An applied EVT moves STATE only where the stop is armed (40_engine.md R104). -/
theorem applyEvent_state (tc : Bool) (s : State) : (applyEvent tc s).state = if s.stopArm then .draining else s.state := by
  unfold applyEvent; split <;> rfl

@[simp] theorem applyEvent_bufIdx (tc : Bool) (s : State) : (applyEvent tc s).bufIdx = tc := by unfold applyEvent; split <;> rfl
@[simp] theorem applyEvent_cfg (tc : Bool) (s : State) : (applyEvent tc s).cfg = s.cfg := by unfold applyEvent; split <;> rfl
@[simp] theorem applyEvent_initd (tc : Bool) (s : State) : (applyEvent tc s).initd = s.initd := by unfold applyEvent; split <;> rfl
@[simp] theorem applyEvent_xportEn (tc : Bool) (s : State) : (applyEvent tc s).xportEn = s.xportEn := by unfold applyEvent; split <;> rfl
@[simp] theorem applyEvent_faults (tc : Bool) (s : State) : (applyEvent tc s).faults = s.faults := by unfold applyEvent; split <;> rfl
@[simp] theorem applyEvent_hist (tc : Bool) (s : State) : (applyEvent tc s).hist = s.hist := by unfold applyEvent; split <;> rfl
@[simp] theorem applyEvent_port (tc : Bool) (s : State) (p : Port) : (applyEvent tc s).port p = s.port p := by
  unfold applyEvent; split <;> cases p <;> rfl

/-! ### deliverBlock -/

@[simp] theorem deliverBlock_cfg (tmo : BitVec 24) (s : State) : (deliverBlock tmo s).cfg = s.cfg := respond_cfg ..
@[simp] theorem deliverBlock_state (tmo : BitVec 24) (s : State) : (deliverBlock tmo s).state = s.state := respond_state ..
@[simp] theorem deliverBlock_bufIdx (tmo : BitVec 24) (s : State) : (deliverBlock tmo s).bufIdx = s.bufIdx := respond_bufIdx ..
@[simp] theorem deliverBlock_initd (tmo : BitVec 24) (s : State) : (deliverBlock tmo s).initd = s.initd := respond_initd ..
@[simp] theorem deliverBlock_xportEn (tmo : BitVec 24) (s : State) : (deliverBlock tmo s).xportEn = s.xportEn := respond_xportEn ..
@[simp] theorem deliverBlock_faults (tmo : BitVec 24) (s : State) : (deliverBlock tmo s).faults = s.faults := respond_faults ..

/-! ### finishDrain -/

@[simp] theorem finishDrain_cfg (tmo : BitVec 24) (s : State) : (finishDrain tmo s).cfg = s.cfg := respond_cfg ..
@[simp] theorem finishDrain_state (tmo : BitVec 24) (s : State) : (finishDrain tmo s).state = .idle := respond_state ..
@[simp] theorem finishDrain_bufIdx (tmo : BitVec 24) (s : State) : (finishDrain tmo s).bufIdx = s.bufIdx := respond_bufIdx ..
@[simp] theorem finishDrain_initd (tmo : BitVec 24) (s : State) : (finishDrain tmo s).initd = s.initd := respond_initd ..
@[simp] theorem finishDrain_xportEn (tmo : BitVec 24) (s : State) : (finishDrain tmo s).xportEn = s.xportEn := respond_xportEn ..
@[simp] theorem finishDrain_faults (tmo : BitVec 24) (s : State) : (finishDrain tmo s).faults = s.faults := respond_faults ..

end Sys2Proof.Machine
end

section
/-! What a step can do to the whole state, said once: the agents' own side moves on, then the PPBA stays as it is or acts in one of
the ways `RuleStep` lists, each with its response. -/

namespace Sys2Proof.Machine

/-- The ways the PPBA acts in one atomic step, each with its guard; the guards on the stream state stand in `ControlStep`. -/
inductive RuleStep : State → State → Prop where
  | same (s) : RuleStep s s
  /-- a response that goes with no other change: an error, a poll that found nothing, STAT, an ignored EVT -/
  | answer (s p cw dw sts data) : RuleStep s (complete p cw dw sts data false s)
  | fault (s f) :
      (f = .mf1 ∧ s.held.valid = true ∧ s.held.ovr = true) ∨ (f = .mf2 ∧ s.engEn = true) ∨ (f = .mf3 ∧ s.engEn = false) →
      RuleStep s (raiseFault f s)
  | read (s i dir ch half off) : RuleStep s (respondRead i dir ch half off s)
  | write (s i dir ch half off dw) :
      off.toNat < s.cfg.ns → (dir = .input ∧ engineMayAccess s half) ∨ (dir = .output ∧ consumerMayAccess s half) →
      RuleStep s (respond i .ok 0#32 (bufWrite dir ch half off dw s))
  | init (s) : s.initd = false →
      RuleStep s (respond .init .ok 0#32
        (emit .engCfg { s with bufIdx := true, slot := Slot.empty, drainDone := false, initd := true }))
  | start (s) : s.state = .idle → s.initd = true →
      RuleStep s (respond .start .ok 0#32
        { emit .xportClrFlags { s with stopArm := false, drainDone := false } with
          engEn := true, xportEn := true, state := .streaming })
  | stop (s) : s.state = .streaming → RuleStep s (respond .stop .ok 0#32 { s with state := .stopRequested, stopArm := true })
  | pendDrain (s tmo) : s.drainDone = false → tmo ≠ 0#24 → RuleStep s { s with pendH := some tmo }
  | finish (s tmo) : s.drainDone = true → RuleStep s (finishDrain tmo s)
  | drainTimeout (s tmo) : s.pendH = some tmo → s.drainDone = false →
      RuleStep s (respond (.wdrain tmo) .timeout 0#32 { s with pendH := none })
  | reconf (s rate size) : s.state = .idle →
      RuleStep s (respond (.reconf rate size) .ok 0#32 (emit (.xportCfg rate size) { s with rate := rate, size := size }))
  | pendTake (s tmo) : s.held.valid = false → s.slot.full = false → tmo ≠ 0#24 → RuleStep s { s with pendC := some tmo }
  | deliver (s tmo) : s.slot.full = true → RuleStep s (deliverBlock tmo s)
  | takeTimeout (s tmo) : s.pendC = some tmo → s.slot.full = false →
      RuleStep s (respond (.take tmo) .timeout 0#32 { s with pendC := none })
  | release (s) : s.held.valid = true →
      RuleStep s (respond .done .ok 0#32
        { s with
          drainDone := s.drainDone || (s.held.final && s.state == .draining)
          held := { s.held with valid := false } })
  | event (s tc) : s.engEn = true → RuleStep s (respond (.evt tc) .ok (evtData true) (applyEvent tc s))

/-- A response without another change, in the form the command rules write it. -/
theorem RuleStep.answered (i : Instr) (sts : Status) (data : Word) (s : State) : RuleStep s (respond i sts data s) :=
  .answer s i.port i.cw i.dw sts data

/-- Every command rule is one of the ways listed. -/
theorem exec_rule {i : Instr} {s t : State} (h : exec i s = .next t) : RuleStep s t := by
  cases i with
  | init =>
    simp only [exec, execInit] at h
    split at h <;> cases h
    · exact .answered ..
    · next hi => exact .init s (by simpa using hi)
  | start =>
    simp only [exec, execStart] at h
    split at h <;> cases h
    · exact .answered ..
    · next hi =>
      simp only [Bool.or_eq_true, bne_iff_ne, ne_eq, not_or, not_not, Bool.not_eq_true, Bool.not_eq_false'] at hi
      exact .start s hi.1 hi.2
  | stop =>
    simp only [exec, execStop] at h
    split at h <;> cases h
    · exact .answered ..
    · next hi => exact .stop s (by simpa using hi)
  | wdrain tmo =>
    simp only [exec, execWdrain] at h
    split at h
    · cases h; exact .answered ..
    split at h
    · next hd => cases h; exact .finish s tmo hd
    next hd =>
    split at h <;> cases h
    · exact .answered ..
    · next hp => exact .pendDrain s tmo (by simpa using hd) (by simpa [isPoll] using hp)
  | reconf rate size =>
    simp only [exec, execReconf] at h
    split at h <;> cases h
    · exact .answered ..
    · next hi => exact .reconf s rate size (by simpa using hi)
  | stat sel =>
    simp only [exec, execStat] at h
    cases h; exact .answered ..
  | bufrd dir ch half off =>
    simp only [exec, execBufrd] at h
    split at h
    · cases h; exact .answered ..
    split at h <;> cases h
    · exact .answered ..
    · exact .read s _ dir ch half off
  | take tmo =>
    simp only [exec, execTake] at h
    split at h
    · cases h; exact .answered ..
    next hv =>
    split at h
    · next hf => cases h; exact .deliver s tmo hf
    next hf =>
    split at h <;> cases h
    · exact .answered ..
    · next hp => exact .pendTake s tmo (by simpa using hv) (by simpa using hf) (by simpa [isPoll] using hp)
  | done =>
    simp only [exec, execDone] at h
    split at h <;> cases h
    · exact .answered ..
    · next hi => exact .release s (by simpa using hi)
  | crd ch off =>
    simp only [exec, execCrd] at h
    split at h
    · cases h; exact .answered ..
    split at h
    · cases h; exact .answered ..
    next hv =>
    split at h <;> cases h
    · next ho => exact .fault s _ (.inl ⟨rfl, by simpa using hv, ho⟩)
    · exact .read s _ _ ch _ off
  | cwr ch off dw =>
    simp only [exec, execCwr] at h
    split at h
    · cases h; exact .answered ..
    next hr =>
    split at h
    · cases h; exact .answered ..
    next hv =>
    split at h <;> cases h
    · next ho => exact .fault s _ (.inl ⟨rfl, by simpa using hv, ho⟩)
    · next ho =>
      exact .write s _ _ ch _ off dw (by simpa [offInRange] using hr) (.inr ⟨rfl, by simpa using hv, by simpa using ho, rfl⟩)
  | evt tc =>
    simp only [exec, execEvt] at h
    split at h <;> cases h
    · next he => exact .event s tc he
    · exact .answered ..
  | ewr ch half off dw =>
    simp only [exec, execEwr] at h
    split at h
    · cases h; exact .answered ..
    next hr =>
    split at h
    · next he => cases h; exact .fault s _ (.inr (.inr ⟨rfl, by simpa using he⟩))
    next he =>
    have hon : s.engEn = true := by simpa using he
    split at h <;> cases h
    · exact .fault s _ (.inr (.inl ⟨rfl, hon⟩))
    · next hb =>
      exact .write s _ _ ch half off dw (by simpa [offInRange] using hr)
        (.inl ⟨rfl, hon, Bool.eq_not_of_ne (by simpa using hb)⟩)
  | erd ch half off =>
    simp only [exec, execErd] at h
    split at h
    · cases h; exact .answered ..
    split at h
    · next he => cases h; exact .fault s _ (.inr (.inr ⟨rfl, by simpa using he⟩))
    next he =>
    split at h <;> cases h
    · exact .fault s _ (.inr (.inl ⟨rfl, by simpa using he⟩))
    · exact .read s _ _ ch half off

/-- Taking a command is one of the ways listed. -/
theorem takeCommand_rule {p : Port} {s t : State} (h : takeCommand p s = .next t) : RuleStep s t := by
  rcases takeCommand_cases h with rfl | ⟨cw, dw, _, _, hr⟩
  · exact .same _
  · rcases runCommand_cases hr with ⟨i, _, hi⟩ | ⟨_, rfl⟩
    · exact exec_rule hi
    · exact .answer s p cw dw _ _

theorem deliveryStep_rule (s : State) : RuleStep s (deliveryStep s) := by
  unfold deliveryStep
  split
  · exact .same _
  · split
    · next hf => exact .deliver s _ hf
    · exact .same _

theorem takeTimeoutStep_rule (s : State) : RuleStep s (takeTimeoutStep s) := by
  unfold takeTimeoutStep
  split
  · exact .same _
  · next hp =>
    split
    · next hf => exact .takeTimeout s _ hp (by simpa using (Bool.and_eq_true_iff.mp hf).2)
    · exact .same _

theorem finishStep_rule (s : State) : RuleStep s (finishStep s) := by
  unfold finishStep
  split
  · exact .same _
  · split
    · next hd => exact .finish s _ hd
    · exact .same _

theorem drainTimeoutStep_rule (s : State) : RuleStep s (drainTimeoutStep s) := by
  unfold drainTimeoutStep
  split
  · exact .same _
  · next hp =>
    split
    · next hd => exact .drainTimeout s _ hp (by simpa using (Bool.and_eq_true_iff.mp hd).2)
    · exact .same _

/-- The two states differ on the agents' side only: their schedule, places and words to come, and the count of draws. -/
structure SameHardware (s a : State) : Prop where
  control : a.control = s.control
  cfg     : a.cfg = s.cfg
  buf     : a.buf = s.buf
  faults  : a.faults = s.faults
  hist    : a.hist = s.hist
  pos     : ∀ p, (a.port p).pos = (s.port p).pos

theorem SameHardware.refl (s : State) : SameHardware s s := ⟨rfl, rfl, rfl, rfl, rfl, fun _ => rfl⟩

theorem sameHardware_setSched (s : State) (us : List Turn) : SameHardware s (s.setSched us) :=
  ⟨rfl, rfl, rfl, rfl, rfl, by simp⟩

theorem sameHardware_setEng (s : State) (a : RingAgent) : SameHardware s (s.setEng a) :=
  ⟨rfl, rfl, rfl, rfl, rfl, by simp⟩

theorem sameHardware_setCons (s : State) (a : LoopAgent) : SameHardware s (s.setCons a) :=
  ⟨rfl, rfl, rfl, rfl, rfl, by simp⟩

theorem sameHardware_spendDraw (s : State) : SameHardware s (spendDraw s) :=
  ⟨rfl, rfl, rfl, rfl, rfl, fun p => by cases p <;> rfl⟩

/-- The words a port has still to take are the agent's, its position is the PPBA's. -/
theorem issue_pos (i : Instr) (s : State) (p : Port) : ((issue i s).port p).pos = (s.port p).pos := by
  by_cases hp : p = i.port
  · subst hp; simp [issue]
  · rw [issue, setPort_port_other _ _ hp]

theorem sameHardware_issue (i : Instr) (s : State) : SameHardware s (issue i s) :=
  ⟨by simp, by simp, by simp, by simp, by simp, issue_pos i s⟩

theorem SameHardware.trans {s a b : State} (h : SameHardware s a) (k : SameHardware a b) : SameHardware s b :=
  ⟨k.control.trans h.control, k.cfg.trans h.cfg, k.buf.trans h.buf, k.faults.trans h.faults, k.hist.trans h.hist,
    fun p => (k.pos p).trans (h.pos p)⟩

section
variable {s a : State} (h : SameHardware s a)
include h

theorem SameHardware.state : a.state = s.state := congrArg Control.state h.control
theorem SameHardware.bufIdx : a.bufIdx = s.bufIdx := congrArg Control.bufIdx h.control
theorem SameHardware.engEn : a.engEn = s.engEn := congrArg Control.engEn h.control
theorem SameHardware.stopArm : a.stopArm = s.stopArm := congrArg Control.stopArm h.control
theorem SameHardware.drainDone : a.drainDone = s.drainDone := congrArg Control.drainDone h.control
theorem SameHardware.initd : a.initd = s.initd := congrArg Control.initd h.control
theorem SameHardware.xportEn : a.xportEn = s.xportEn := congrArg Control.xportEn h.control

end

/-- A command a reference agent issues and runs: its own side moves on, then the rule acts. -/
theorem issued_rule {p : Port} {i : Instr} {s a t : State} (hs : SameHardware s a) (h : takeCommand p (issue i a) = .next t) :
    ∃ b, SameHardware s b ∧ RuleStep b t :=
  ⟨_, hs.trans (sameHardware_issue i a), takeCommand_rule h⟩

/-- A turn moves the agents' own side on, then acts in one of the ways listed. -/
theorem runTurn_rule {u : Turn} {s t : State} (h : runTurn u s = .next t) : ∃ a, SameHardware s a ∧ RuleStep a t := by
  have here (hr : RuleStep s t) : ∃ a, SameHardware s a ∧ RuleStep a t := ⟨s, .refl s, hr⟩
  rcases runTurn_cases h with ⟨p, _, hp⟩ | ⟨_, rfl⟩ | ⟨_, rfl⟩ | ⟨_, rfl⟩ | ⟨_, rfl⟩ | ⟨m, _, hm⟩ | ⟨m, _, hm⟩
  · exact here (takeCommand_rule hp)
  · exact here (deliveryStep_rule s)
  · exact here (takeTimeoutStep_rule s)
  · exact here (finishStep_rule s)
  · exact here (drainTimeoutStep_rule s)
  · rcases engineMove_cases hm with rfl | ⟨_, _, ⟨ch, dw, _, ht⟩ | ⟨ch, _, ht⟩ | ht⟩
    · exact here (.same _)
    · exact issued_rule ((sameHardware_setEng s _).trans (sameHardware_spendDraw _)) ht
    all_goals exact issued_rule (sameHardware_setEng s _) ht
  · rcases consumerMove_cases hm with rfl | ⟨_, _, ⟨_, ht⟩ | ⟨_, _, _, _, ht⟩ | ⟨_, _, _, _, _, ht⟩ | ⟨_, ht⟩⟩
    · exact here (.same _)
    all_goals exact issued_rule (sameHardware_setCons s _) ht

/-- Every step moves the agents' own side on, then acts in one of the ways listed. -/
theorem step_rule {s t : State} (h : step s = .next t) : ∃ a, SameHardware s a ∧ RuleStep a t := by
  rcases step_cases h with ⟨_, rfl⟩ | ⟨u, us, _, hu⟩
  · exact ⟨t, .refl t, .same t⟩
  · obtain ⟨a, ha, hr⟩ := runTurn_rule hu
    exact ⟨a, (sameHardware_setSched s us).trans ha, hr⟩

end Sys2Proof.Machine
end

section
/-! Coherence (10_state.md R40) reads the control elements only, so it is proved of `ControlStep`, one lemma per way the control
state changes; each lemma names the invariants that the change touches. -/

namespace Sys2Proof.Machine

/-- A state with this control part, everything else as after reset: what `Coherent` says of a control part. -/
def Control.toState (c : Control) : State :=
  { State.reset with
    state := c.state, bufIdx := c.bufIdx, slot := c.slot, held := c.held, engEn := c.engEn, stopArm := c.stopArm,
    drainDone := c.drainDone, initd := c.initd, rate := c.rate, size := c.size, xportEn := c.xportEn,
    pendH := c.pendH, pendC := c.pendC }

/-- `Coherent` reads nothing but the control part. -/
theorem coherent_iff_control (s : State) : Coherent s ↔ Coherent s.control.toState :=
  ⟨fun h => { h with }, fun h => { h with }⟩

/-- With SLOT and HELD empty there is no final block. -/
theorem no_final_block {slot : Slot} {held : Held} (hs : slot.full = false) (hh : held.valid = false) :
    ¬ ((slot.final = true ∧ slot.full = true) ∨ (held.final = true ∧ held.valid = true)) := by
  simp [hs, hh]

/-- A block that a completion event overruns is no longer one that HELD may call the latest (10_state.md R27). -/
theorem overrun_marked {held : Held} (hv : held.valid = true) : (held.ovr || held.valid) ≠ false := by
  simp [hv]

section
variable {c : Control} (hc : Coherent c.toState)
include hc

/-- INIT finds every stream control at rest and no block anywhere, by `beforeInit`. -/
theorem init_keeps_coherent (hi : c.initd = false) :
    Coherent (Control.toState { c with bufIdx := true, slot := Slot.empty, drainDone := false, initd := true }) := by
  obtain ⟨_, _, _, hheld⟩ := hc.beforeInit hi
  exact { hc with
    slotIsLatest := nofun
    heldIsLatest := fun hv => absurd hv (ne_true_of_eq_false hheld)
    drainSignal := nofun
    finalInDraining := fun hf => absurd hf (no_final_block rfl hheld)
    beforeInit := nofun
    signalIsLast := nofun
    finalIsLast := fun _ _ => rfl
    nothingInIdle := fun _ => ⟨rfl, hheld⟩ }

/-- START arms the engine out of Idle, where there is no block and no outstanding WDRAIN. -/
theorem start_keeps_coherent (hidle : c.state = .idle) (hi : c.initd = true) :
    Coherent (Control.toState
      { c with stopArm := false, drainDone := false, engEn := true, xportEn := true, state := .streaming }) := by
  obtain ⟨hslot, hheld⟩ := hc.nothingInIdle hidle
  exact { hc with
    armedWhileOn := nofun
    onWhileStreaming := fun _ => .inl rfl
    drainSignal := nofun
    finalInDraining := fun hf => absurd hf (no_final_block hslot hheld)
    offAtRest := fun hr => hr.elim nofun nofun
    beforeInit := fun hn => absurd hi (ne_true_of_eq_false hn)
    onInStreaming := fun _ => ⟨rfl, rfl⟩
    onInStopRequested := nofun
    signalIsLast := nofun
    nothingInIdle := nofun
    drainOutstanding := fun hp =>
      (hc.drainOutstanding hp).elim (fun h => nomatch hidle.symm.trans h) (fun h => nomatch hidle.symm.trans h) }

/-- STOP arms the stop of a running engine; a final block or DRAIN_DONE would mean Draining, not Streaming. -/
theorem stop_keeps_coherent (hs : c.state = .streaming) :
    Coherent (Control.toState { c with state := .stopRequested, stopArm := true }) :=
  { hc with
    armedWhileOn := fun _ _ => rfl
    onWhileStreaming := fun _ => .inr rfl
    drainSignal := fun hd => nomatch hs.symm.trans (hc.drainSignal hd)
    finalInDraining := fun hf => nomatch hs.symm.trans (hc.finalInDraining hf)
    offAtRest := fun hr => hr.elim nofun nofun
    beforeInit := fun hn => nomatch hs.symm.trans (hc.beforeInit hn).1
    onInStreaming := nofun
    onInStopRequested := fun _ => ⟨(hc.onInStreaming hs).1, rfl⟩
    nothingInIdle := nofun
    drainOutstanding := fun _ => .inl rfl }

/-- A WDRAIN that waits was issued in StopRequested or Draining and is no poll. -/
theorem pendDrain_keeps_coherent {tmo : BitVec 24} (hs : c.state = .stopRequested ∨ c.state = .draining) (ht : tmo ≠ 0#24) :
    Coherent (Control.toState { c with pendH := some tmo }) :=
  { hc with
    drainOutstanding := fun _ => hs
    noPollOutstanding := ⟨fun h => ht (Option.some.inj h), hc.noPollOutstanding.2⟩ }

/-- A WDRAIN that times out leaves no claim about an outstanding one. -/
theorem drainTimeout_keeps_coherent : Coherent (Control.toState { c with pendH := none }) :=
  { hc with
    drainOutstanding := fun hp => absurd rfl hp
    noPollOutstanding := ⟨nofun, hc.noPollOutstanding.2⟩ }

/-- A finish comes out of Draining with the engine off and no block left, by `drainSignal` and `signalIsLast`. -/
theorem finish_keeps_coherent (hd : c.drainDone = true) :
    Coherent (Control.toState { c with drainDone := false, state := .idle, pendH := none }) := by
  have hoff := hc.offAtRest (.inr (hc.drainSignal hd))
  obtain ⟨hslot, hheld⟩ := hc.signalIsLast hd
  exact { hc with
    armedWhileOn := fun _ he => absurd he (ne_true_of_eq_false hoff)
    onWhileStreaming := fun he => absurd he (ne_true_of_eq_false hoff)
    drainSignal := nofun
    finalInDraining := fun hf => absurd hf (no_final_block hslot hheld)
    offAtRest := fun _ => hoff
    beforeInit := fun _ => ⟨rfl, hoff, hslot, hheld⟩
    onInStreaming := nofun
    onInStopRequested := nofun
    signalIsLast := nofun
    nothingInIdle := fun _ => ⟨hslot, hheld⟩
    drainOutstanding := fun hp => absurd rfl hp
    noPollOutstanding := ⟨nofun, hc.noPollOutstanding.2⟩ }

/-- A delivery moves the block of a full SLOT, and what is known of it, to HELD. -/
theorem deliver_keeps_coherent (hf : c.slot.full = true) :
    Coherent (Control.toState
      { c with
        held := { valid := true, idx := c.slot.idx, final := c.slot.final, ovr := false }
        slot := { c.slot with full := false }
        pendC := none }) :=
  { hc with
    slotIsLatest := nofun
    heldIsLatest := fun _ _ => hc.slotIsLatest hf
    finalInDraining := fun h => h.elim (fun h => nomatch h.2) (fun h => hc.finalInDraining (.inl ⟨h.1, hf⟩))
    beforeInit := fun hn => absurd hf (ne_true_of_eq_false (hc.beforeInit hn).2.2.1)
    signalIsLast := fun hd => absurd hf (ne_true_of_eq_false (hc.signalIsLast hd).1)
    finalIsLast := fun _ _ => rfl
    nothingInIdle := fun hi => absurd hf (ne_true_of_eq_false (hc.nothingInIdle hi).1)
    takeOutstanding := fun hp => absurd rfl hp
    noPollOutstanding := ⟨hc.noPollOutstanding.1, nofun⟩ }

/-- A TAKE that waits was issued with no block held and is no poll. -/
theorem pendTake_keeps_coherent {tmo : BitVec 24} (hv : c.held.valid = false) (ht : tmo ≠ 0#24) :
    Coherent (Control.toState { c with pendC := some tmo }) :=
  { hc with
    takeOutstanding := fun _ => hv
    noPollOutstanding := ⟨hc.noPollOutstanding.1, fun h => ht (Option.some.inj h)⟩ }

/-- A TAKE that times out leaves no claim about an outstanding one. -/
theorem takeTimeout_keeps_coherent : Coherent (Control.toState { c with pendC := none }) :=
  { hc with
    takeOutstanding := fun hp => absurd rfl hp
    noPollOutstanding := ⟨hc.noPollOutstanding.1, nofun⟩ }

/-- A DONE signals the drain only for the final block, which is the last one by `finalIsLast`. -/
theorem release_keeps_coherent (hv : c.held.valid = true) :
    Coherent (Control.toState
      { c with
        drainDone := c.drainDone || (c.held.final && c.state == .draining)
        held := { c.held with valid := false } }) := by
  have signalled (hd : (c.drainDone || (c.held.final && c.state == .draining)) = true) :
      c.held.final = true ∧ c.state = .draining := by
    rcases Bool.or_eq_true_iff.mp hd with hd | hd
    · exact absurd hv (ne_true_of_eq_false (hc.signalIsLast hd).2)
    · simpa using hd
  exact { hc with
    heldIsLatest := nofun
    drainSignal := fun hd => (signalled hd).2
    finalInDraining := fun h => h.elim (fun h => hc.finalInDraining (.inl h)) (fun h => nomatch h.2)
    beforeInit := fun hn => absurd hv (ne_true_of_eq_false (hc.beforeInit hn).2.2.2)
    signalIsLast := fun hd => ⟨hc.finalIsLast (signalled hd).1 hv, rfl⟩
    finalIsLast := nofun
    nothingInIdle := fun hi => absurd hv (ne_true_of_eq_false (hc.nothingInIdle hi).2)
    takeOutstanding := fun _ => rfl }

/-- An applied EVT without a stop comes in Streaming, where no final block is held. -/
theorem event_keeps_coherent {tc : Bool} (he : c.engEn = true) (ha : c.stopArm = false) :
    Coherent (Control.toState
      { c with
        bufIdx := tc
        held := { c.held with ovr := c.held.ovr || c.held.valid }
        slot := { full := true, idx := tc, final := false } }) := by
  have hs : c.state = .streaming :=
    (hc.onWhileStreaming he).resolve_right fun h => absurd (hc.onInStopRequested h).2 (ne_true_of_eq_false ha)
  exact { hc with
    slotIsLatest := fun _ => rfl
    heldIsLatest := fun hv ho => absurd ho (overrun_marked (held := c.held) hv)
    finalInDraining := fun h => h.elim nofun (fun h => hc.finalInDraining (.inr h))
    beforeInit := fun hn => absurd he (ne_true_of_eq_false (hc.beforeInit hn).2.1)
    signalIsLast := fun hd => nomatch hs.symm.trans (hc.drainSignal hd)
    finalIsLast := fun hf hv => nomatch hs.symm.trans (hc.finalInDraining (.inr ⟨hf, hv⟩))
    nothingInIdle := fun hi => nomatch hs.symm.trans hi }

/-- The halting EVT comes in StopRequested, where no final block is held and DRAIN_DONE is 0 (40_engine.md R104). -/
theorem halt_keeps_coherent {tc : Bool} (he : c.engEn = true) (ha : c.stopArm = true) :
    Coherent (Control.toState
      { c with
        bufIdx := tc
        held := { c.held with ovr := c.held.ovr || c.held.valid }
        slot := { full := true, idx := tc, final := true }
        engEn := false
        state := .draining }) := by
  have hs : c.state = .stopRequested := hc.armedWhileOn ha he
  exact { hc with
    slotIsLatest := fun _ => rfl
    heldIsLatest := fun hv ho => absurd ho (overrun_marked (held := c.held) hv)
    armedWhileOn := nofun
    onWhileStreaming := nofun
    drainSignal := fun _ => rfl
    finalInDraining := fun _ => rfl
    offAtRest := fun _ => rfl
    beforeInit := fun hn => absurd he (ne_true_of_eq_false (hc.beforeInit hn).2.1)
    onInStreaming := nofun
    onInStopRequested := nofun
    signalIsLast := fun hd => nomatch hs.symm.trans (hc.drainSignal hd)
    finalIsLast := fun hf hv => nomatch hs.symm.trans (hc.finalInDraining (.inr ⟨hf, hv⟩))
    nothingInIdle := nofun
    drainOutstanding := fun _ => .inr rfl }

end

/-- No way the control state changes leaves the invariants. -/
theorem ControlStep.coherent {c d : Control} (h : ControlStep c d) (hc : Coherent c.toState) : Coherent d.toState := by
  cases h with
  | same => exact hc
  | init hi => exact init_keeps_coherent hc hi
  | start hs hi => exact start_keeps_coherent hc hs hi
  | stop hs => exact stop_keeps_coherent hc hs
  | pendDrain tmo hs _ ht => exact pendDrain_keeps_coherent hc hs ht
  | finish hd => exact finish_keeps_coherent hc hd
  | drainTimeout => exact drainTimeout_keeps_coherent hc
  | reconf => exact { hc with }
  | deliver hf => exact deliver_keeps_coherent hc hf
  | pendTake tmo hv _ ht => exact pendTake_keeps_coherent hc hv ht
  | takeTimeout => exact takeTimeout_keeps_coherent hc
  | release hv => exact release_keeps_coherent hc hv
  | event tc he ha => exact event_keeps_coherent hc he ha
  | halt tc he ha => exact halt_keeps_coherent hc he ha

/-- Settles O35: every step changes the control state as `ControlStep` lists, and each way listed keeps the invariants. -/
theorem stepKeepsCoherence : Obligations.StepKeepsCoherence := fun s t hs h =>
  (coherent_iff_control t).mpr ((step_control h).coherent ((coherent_iff_control s).mp hs))

/-- The reset state is coherent, whatever streams and order of steps the agents bring. -/
theorem coherent_loaded (c : Config) (host cons eng : List Word) (sched : List Turn) :
    Coherent (State.loaded c host cons eng sched) where
  slotIsLatest := nofun
  heldIsLatest := nofun
  armedWhileOn := nofun
  onWhileStreaming := nofun
  drainSignal := nofun
  finalInDraining := fun h => absurd h (no_final_block rfl rfl)
  offAtRest := fun _ => rfl
  beforeInit := fun _ => ⟨rfl, rfl, rfl, rfl⟩
  onInStreaming := nofun
  onInStopRequested := nofun
  signalIsLast := nofun
  finalIsLast := nofun
  nothingInIdle := fun _ => ⟨rfl, rfl⟩
  drainOutstanding := fun h => absurd rfl h
  takeOutstanding := fun _ => rfl
  noPollOutstanding := ⟨nofun, nofun⟩

/-- Coherence holds along every run. -/
theorem Reachable.coherent {c : Config} {s : State} (h : Reachable c s) : Coherent s := by
  induction h with
  | start host cons eng sched => exact coherent_loaded c host cons eng sched
  | step _ hst ih => exact stepKeepsCoherence _ _ ih hst

/-- Settles O36, by induction on the run: the eight invariants are part of `Coherent`. -/
theorem reachableStatesMeetTheInvariants : Obligations.ReachableStatesMeetTheInvariants := fun _ _ h =>
  h.coherent.toInvariantsR40

end Sys2Proof.Machine
end

section
/-! The rows of 10_state.md R24 and R25: each way to act that writes STATE or BUFIDX, with its guard and the record it ends with. -/

namespace Sys2Proof.Machine

/-- The ways to act that move STATE. -/
theorem RuleStep.state_moves {s t : State} (h : RuleStep s t) (hne : t.state ≠ s.state) :
    (s.state = .idle ∧ s.initd = true ∧ t.state = .streaming ∧
      t.hist.getLast? = some (.command ⟨.host, Instr.start.cw, none, .ok, 0#32, false⟩)) ∨
    (s.state = .streaming ∧ t.state = .stopRequested ∧
      t.hist.getLast? = some (.command ⟨.host, Instr.stop.cw, none, .ok, 0#32, false⟩)) ∨
    (s.engEn = true ∧ s.stopArm = true ∧ t.state = .draining ∧
      ∃ tc, t.hist.getLast? = some (.command ⟨.engine, (Instr.evt tc).cw, none, .ok, 1#32, false⟩)) ∨
    (s.drainDone = true ∧ t.state = .idle ∧
      ∃ tmo, t.hist.getLast? = some (.command ⟨.host, (Instr.wdrain tmo).cw, none, .ok, 0#32, false⟩)) := by
  cases h with
  | start hs hi => exact .inl ⟨hs, hi, by simp, respond_hist_getLast? ..⟩
  | stop hs => exact .inr (.inl ⟨hs, by simp, respond_hist_getLast? ..⟩)
  | event tc he =>
    rw [respond_state, applyEvent_state] at hne
    have ha : s.stopArm = true := by
      by_contra ha
      simp [ha] at hne
    exact .inr (.inr (.inl ⟨he, ha, by simp [applyEvent_state, ha], tc, respond_hist_getLast? ..⟩))
  | finish tmo hd =>
    exact .inr (.inr (.inr ⟨hd, by simp, tmo, respond_hist_getLast? ..⟩))
  | same | answer | fault | read | write | init | pendDrain | drainTimeout | reconf | pendTake | deliver | takeTimeout |
    release =>
    exact absurd (by simp) hne

/-- Settles O37: the ways to act that move STATE, in a coherent state. -/
theorem stateMovesOnlyAlongTheTable : Obligations.StateMovesOnlyAlongTheTable := by
  intro s t hs h hne
  obtain ⟨a, ha, hr⟩ := step_rule h
  rw [← ha.state] at hne
  rcases hr.state_moves hne with ⟨hi, hini, ht, hl⟩ | ⟨hi, ht, hl⟩ | ⟨he, hsa, ht, hl⟩ | ⟨hd, ht, hl⟩
  · exact .inl ⟨ha.state ▸ hi, ha.initd ▸ hini, ht, hl⟩
  · exact .inr (.inl ⟨ha.state ▸ hi, ht, hl⟩)
  · rw [ha.engEn] at he
    rw [ha.stopArm] at hsa
    exact .inr (.inr (.inl ⟨hs.armedWhileOn hsa he, hsa, he, ht, hl⟩))
  · rw [ha.drainDone] at hd
    exact .inr (.inr (.inr ⟨.inr (hs.drainSignal hd), hd, ht, hl⟩))

/-- The ways to act that write BUFIDX. -/
theorem RuleStep.bufIdx_writes {s t : State} (h : RuleStep s t) (hne : t.bufIdx ≠ s.bufIdx) :
    (s.engEn = true ∧
      t.hist.getLast? = some (.command ⟨.engine, (Instr.evt t.bufIdx).cw, none, .ok, 1#32, false⟩)) ∨
    (s.initd = false ∧ t.initd = true ∧ t.bufIdx = true ∧
      t.hist.getLast? = some (.command ⟨.host, Instr.init.cw, none, .ok, 0#32, false⟩)) := by
  cases h with
  | event tc he =>
    rw [respond_bufIdx, applyEvent_bufIdx]
    exact .inl ⟨he, respond_hist_getLast? ..⟩
  | init hi => exact .inr ⟨hi, by simp, by simp, respond_hist_getLast? ..⟩
  | same | answer | fault | read | write | start | stop | pendDrain | finish | drainTimeout | reconf | pendTake | deliver | takeTimeout |
    release =>
    exact absurd (by simp) hne

/-- Settles O38: the ways to act that write BUFIDX are the applied EVT and INIT. -/
theorem onlyEventsAndInitWriteBufidx : Obligations.OnlyEventsAndInitWriteBufidx := by
  intro s t h hne
  obtain ⟨a, ha, hr⟩ := step_rule h
  rw [← ha.bufIdx] at hne
  rw [← ha.engEn, ← ha.initd]
  exact hr.bufIdx_writes hne

end Sys2Proof.Machine
end

section
/-! What no step undoes: FAULTS (10_state.md R36), HIST with the ports' positions (R37, 30_encoding.md R85), the open parameters
(00_scope.md R9), INITD (R31) and XPORT_EN (R33). -/

namespace Sys2Proof.Machine

/-- FAULTS stays, or gains a member. -/
theorem RuleStep.faults_cases {s t : State} (h : RuleStep s t) : t.faults = s.faults ∨ ∃ f, t.faults = s.faults.insert f := by
  cases h with
  | fault f => exact .inr ⟨f, raiseFault_faults ..⟩
  | _ => exact .inl (by simp)

/-- A member stays when another is added. -/
theorem Faults.insert_keeps (fs : Faults) (f : ModelFault) :
    (fs.mf1 = true → (fs.insert f).mf1 = true) ∧ (fs.mf2 = true → (fs.insert f).mf2 = true) ∧
    (fs.mf3 = true → (fs.insert f).mf3 = true) := by
  cases f <;> simp [Faults.insert]

/-- Settles O46: the PPBA only adds to FAULTS, and a successful end asks for it empty. -/
theorem faultsAreNeverCleared : Obligations.FaultsAreNeverCleared := by
  refine ⟨fun _ => rfl, fun s t h => ?_, fun env s hf hend => hf hend.noFault⟩
  obtain ⟨a, ha, hr⟩ := step_rule h
  rw [← ha.faults]
  rcases hr.faults_cases with hsame | ⟨f, hf⟩
  · rw [hsame]; exact ⟨id, id, id⟩
  · rw [hf]; exact a.faults.insert_keeps f

/-- One command has completed: HIST gains its output events and then its record, and only its port's position advances. -/
def CompletesOne (s t : State) : Prop :=
  ∃ (events : List Event) (r : CommandRecord),
    t.hist = s.hist ++ events.map .output ++ [.command r] ∧
    ∀ p, (t.port p).pos = (s.port p).pos + if p = r.port then 1 else 0

/-- HIST and the ports are as before. -/
def CompletesNone (s t : State) : Prop := t.hist = s.hist ∧ ∀ p, t.port p = s.port p

/-- `complete` after nothing but output events completes one command. -/
theorem complete_completesOne {s a : State} (events : List Event) (hh : a.hist = s.hist ++ events.map .output)
    (hp : ∀ p, a.port p = s.port p) (p : Port) (cw : Word) (dw : Option Word) (sts : Status) (data : Word) (drawn : Bool) :
    CompletesOne s (complete p cw dw sts data drawn a) := by
  refine ⟨events, ⟨p, cw, dw, sts, data, drawn⟩, by rw [complete_hist, hh], fun q => ?_⟩
  by_cases hq : q = p
  · subst hq; simp [hp]
  · simp [complete_port_other cw dw sts data drawn a hq, hp, hq]

/-- `complete` after a change outside HIST and the ports completes one command. -/
theorem completesOne_of_none {s a : State} (hn : CompletesNone s a) (p : Port) (cw : Word) (dw : Option Word) (sts : Status)
    (data : Word) (drawn : Bool) : CompletesOne s (complete p cw dw sts data drawn a) :=
  complete_completesOne [] (by simp [hn.1]) hn.2 ..

/-- Each way to act completes one command or none. -/
theorem RuleStep.completes {s t : State} (h : RuleStep s t) : CompletesNone s t ∨ CompletesOne s t := by
  cases h with
  | same => exact .inl ⟨rfl, fun _ => rfl⟩
  | fault | pendDrain | pendTake => exact .inl ⟨rfl, fun p => by cases p <;> rfl⟩
  | read =>
    unfold respondRead
    split
    · exact .inr (completesOne_of_none ⟨rfl, fun _ => rfl⟩ ..)
    · refine .inr (completesOne_of_none ?_ ..)
      exact ⟨rfl, fun p => by cases p <;> rfl⟩
  | init => exact .inr (complete_completesOne [.engCfg] rfl (fun p => by cases p <;> rfl) ..)
  | start => exact .inr (complete_completesOne [.xportClrFlags] rfl (fun p => by cases p <;> rfl) ..)
  | reconf rate size => exact .inr (complete_completesOne [.xportCfg rate size] rfl (fun p => by cases p <;> rfl) ..)
  | event tc =>
    refine .inr (completesOne_of_none ?_ ..)
    exact ⟨applyEvent_hist tc s, applyEvent_port tc s⟩
  | answer | write | stop | finish | drainTimeout | deliver | takeTimeout | release =>
    refine .inr (completesOne_of_none ?_ ..)
    exact ⟨rfl, fun p => by cases p <;> rfl⟩

/-- HIST is append-only. -/
theorem RuleStep.hist_grows {s t : State} (h : RuleStep s t) : ∃ l, t.hist = s.hist ++ l := by
  rcases h.completes with ⟨hh, _⟩ | ⟨events, r, hh, _⟩
  · exact ⟨[], by rw [hh, List.append_nil]⟩
  · exact ⟨_, hh.trans (List.append_assoc ..)⟩

/-- Output events are no port's records. -/
theorem filter_isRecordOf_output (p : Port) (events : List Event) : (events.map HistEntry.output).filter (isRecordOf p) = [] := by
  simp [isRecordOf]

/-- The position that advances is the one of the port whose record HIST gains. -/
theorem RuleStep.positions {s t : State} (h : RuleStep s t) (hs : PositionsCountRecords s) : PositionsCountRecords t := by
  intro p
  rcases h.completes with ⟨hh, hp⟩ | ⟨events, r, hh, hp⟩
  · rw [hp, hh, hs p]
  · rw [hp, hh, hs p, List.filter_append, List.filter_append, filter_isRecordOf_output]
    by_cases hr : p = r.port
    · simp [isRecordOf, hr]
    · simp [isRecordOf, hr, Ne.symm hr]

/-- Settles O49: the agents' own side has no part in HIST and the positions, and the PPBA completes one command or none. -/
theorem oneRecordPerCompletedCommand : Obligations.OneRecordPerCompletedCommand := by
  intro s t h
  obtain ⟨a, ha, hr⟩ := step_rule h
  refine ⟨ha.hist ▸ hr.hist_grows, fun hs => hr.positions fun p => ?_⟩
  rw [ha.pos, ha.hist, hs p]

/-- The open parameters never change. -/
theorem RuleStep.cfg {s t : State} (h : RuleStep s t) : t.cfg = s.cfg := by
  cases h <;> simp

/-- INITD is set by INIT and never cleared. -/
theorem ControlStep.initd_kept {c d : Control} (h : ControlStep c d) (hi : c.initd = true) : d.initd = true := by
  cases h with
  | init => rfl
  | _ => exact hi

/-- XPORT_EN is set by START and never cleared. -/
theorem ControlStep.xportEn_kept {c d : Control} (h : ControlStep c d) (hx : c.xportEn = true) : d.xportEn = true := by
  cases h with
  | start => rfl
  | _ => exact hx

/-- Settles O50: no way to act writes the parameters, and none sets INITD or XPORT_EN to 0. -/
theorem onlyResetClearsInitdAndXportEn : Obligations.OnlyResetClearsInitdAndXportEn := by
  intro s t h
  obtain ⟨a, ha, hr⟩ := step_rule h
  exact ⟨hr.cfg.trans ha.cfg, (step_control h).initd_kept, (step_control h).xportEn_kept⟩

end Sys2Proof.Machine
end

section
/-! The ghost state (10_state.md R27, R36): a command that raises no model fault does the same with FAULTS and HELD.OVR erased. -/

namespace Sys2Proof.Machine

/-- The state without FAULTS and HELD.OVR. -/
def State.eraseGhost (s : State) : State := { s with faults := Faults.none, held := { s.held with ovr := false } }

/-- A result without the ghost state of its next state. -/
def eraseResult : Result → Result
  | .next t => .next t.eraseGhost
  | .fault r => .fault r
  | .refused r => .refused r

/-- Of two states equal once erased, one with the other's ghost state is the other. -/
theorem eq_of_eraseGhost_eq {s t : State} (h : t.eraseGhost = s.eraseGhost) :
    { t with faults := s.faults, held := { t.held with ovr := s.held.ovr } } = s := by
  have restore := congrArg (fun u : State => { u with faults := s.faults, held := { u.held with ovr := s.held.ovr } }) h
  exact restore

@[simp] theorem eraseResult_next (s : State) : eraseResult (.next s) = .next s.eraseGhost := rfl

/-- A result that is a next state once erased is one before. -/
theorem next_of_eraseResult {r : Result} {u : State} (h : eraseResult r = .next u) : ∃ t, r = .next t ∧ t.eraseGhost = u := by
  cases r with
  | next t => exact ⟨t, rfl, Host.Outcome.next.inj h⟩
  | fault f => cases f
  | refused f => cases h

/-- Two runs of a rule's check branch alike when the check reads no ghost state. -/
theorem eraseResult_ite {c : Prop} [Decidable c] {a a' b b' : Result} (ha : c → eraseResult a = eraseResult a')
    (hb : ¬ c → eraseResult b = eraseResult b') : eraseResult (if c then a else b) = eraseResult (if c then a' else b') := by
  split
  · next h => exact ha h
  · next h => exact hb h

theorem complete_eraseGhost (p : Port) (cw : Word) (dw : Option Word) (sts : Status) (data : Word) (drawn : Bool) (s : State) :
    (complete p cw dw sts data drawn s).eraseGhost = complete p cw dw sts data drawn s.eraseGhost := by cases p <;> rfl

/-- The same response to states that differ in the ghost state only. -/
theorem eraseResult_complete {a b : State} (h : a.eraseGhost = b.eraseGhost) (p : Port) (cw : Word) (dw : Option Word)
    (sts : Status) (data : Word) (drawn : Bool) :
    eraseResult (.next (complete p cw dw sts data drawn a)) = eraseResult (.next (complete p cw dw sts data drawn b)) := by
  simp only [eraseResult_next, complete_eraseGhost, h]

/-- A read answers the word or the draw, and neither is ghost state. -/
theorem eraseResult_respondRead (i : Instr) (dir : Dir) (ch : Channel) (half : Bool) (off : BitVec 16) (s : State) :
    eraseResult (.next (respondRead i dir ch half off s.eraseGhost)) = eraseResult (.next (respondRead i dir ch half off s)) := by
  have hw : s.eraseGhost.bufWord dir ch half off = s.bufWord dir ch half off := rfl
  unfold respondRead
  rw [hw]
  split
  · exact eraseResult_complete (by rfl) ..
  · exact eraseResult_complete (by rfl) ..

/-- An applied EVT reads the ghost bit only to write it. -/
theorem applyEvent_eraseGhost (tc : Bool) (s : State) :
    (applyEvent tc s.eraseGhost).eraseGhost = (applyEvent tc s).eraseGhost := by
  have ha : s.eraseGhost.stopArm = s.stopArm := rfl
  unfold applyEvent
  rw [ha]
  split <;> rfl

/-- CRD and CWR fault when, past their checks, HELD.OVR is 1. -/
theorem ovr_of_faultOf_none {i : Instr} {s : State} {ch : Channel} {off : BitVec 16}
    (hi : i = .crd ch off ∨ ∃ dw, i = .cwr ch off dw) (hf : faultOf i s = none) (hoff : ¬ (!offInRange s.cfg off) = true)
    (hv : ¬ (!s.held.valid) = true) : s.held.ovr = false := by
  simp only [offInRange, Bool.not_eq_true', Bool.not_eq_false, decide_eq_true_eq] at hoff hv
  rcases hi with rfl | ⟨dw, rfl⟩ <;> simpa [faultOf, Instr.wf, Instr.offset, refusedInState, hv, hoff] using hf

/-- CRD and CWR are the only commands that read the ghost state, and they do so for their fault only. -/
theorem exec_eraseGhost {i : Instr} {s : State} (hf : faultOf i s = none) :
    eraseResult (exec i s.eraseGhost) = eraseResult (exec i s) := by
  cases i with
  | init => exact eraseResult_ite (fun _ => rfl) (fun _ => rfl)
  | start => exact eraseResult_ite (fun _ => rfl) (fun _ => rfl)
  | stop => exact eraseResult_ite (fun _ => rfl) (fun _ => rfl)
  | wdrain tmo =>
    refine eraseResult_ite (fun _ => rfl) fun _ => ?_
    refine eraseResult_ite (fun _ => rfl) fun _ => ?_
    exact eraseResult_ite (fun _ => rfl) (fun _ => rfl)
  | reconf rate size => exact eraseResult_ite (fun _ => rfl) (fun _ => rfl)
  | stat sel => rfl
  | bufrd dir ch half off =>
    refine eraseResult_ite (fun _ => rfl) fun _ => ?_
    exact eraseResult_ite (fun _ => rfl) (fun _ => eraseResult_respondRead ..)
  | take tmo =>
    refine eraseResult_ite (fun _ => rfl) fun _ => ?_
    refine eraseResult_ite (fun _ => rfl) fun _ => ?_
    exact eraseResult_ite (fun _ => rfl) (fun _ => rfl)
  | done => exact eraseResult_ite (fun _ => rfl) (fun _ => rfl)
  | crd ch off =>
    refine eraseResult_ite (fun _ => rfl) fun hoff => ?_
    refine eraseResult_ite (fun _ => rfl) fun hv => ?_
    rw [ovr_of_faultOf_none (.inl rfl) hf hoff hv]
    exact eraseResult_respondRead ..
  | cwr ch off dw =>
    refine eraseResult_ite (fun _ => rfl) fun hoff => ?_
    refine eraseResult_ite (fun _ => rfl) fun hv => ?_
    rw [ovr_of_faultOf_none (.inr ⟨dw, rfl⟩) hf hoff hv]
    rfl
  | evt tc => exact eraseResult_ite (fun _ => eraseResult_complete (applyEvent_eraseGhost tc s) ..) (fun _ => rfl)
  | ewr ch half off dw =>
    refine eraseResult_ite (fun _ => rfl) fun _ => ?_
    refine eraseResult_ite (fun _ => rfl) fun _ => ?_
    exact eraseResult_ite (fun _ => rfl) (fun _ => rfl)
  | erd ch half off =>
    refine eraseResult_ite (fun _ => rfl) fun _ => ?_
    refine eraseResult_ite (fun _ => rfl) fun _ => ?_
    exact eraseResult_ite (fun _ => rfl) (fun _ => eraseResult_respondRead ..)

/-- Settles O51: the two runs agree once the ghost state is erased, since erasing it first makes them the same run. -/
theorem ghostStateIsInvisible : Obligations.GhostStateIsInvisible := by
  intro i s t fs ovr hf hf' h
  have agree : eraseResult (exec i { s with faults := fs, held := { s.held with ovr := ovr } }) = .next t.eraseGhost := by
    rw [← exec_eraseGhost hf', ← eraseResult_next, ← h]
    exact exec_eraseGhost hf
  obtain ⟨t', ht', herase⟩ := next_of_eraseResult agree
  exact ⟨t', ht', eq_of_eraseGhost_eq herase⟩

end Sys2Proof.Machine
end

section
/-! The flat map of BUF (20_memory.md R51): the number of a half-buffer and the offset in it are the quotient and the remainder of
the flat address by P_NS, and the number of a half-buffer is its three bits. -/

namespace Sys2Proof.Machine

/-- The number of a half-buffer in BUF, `(DIR * 2 + CH) * 2 + HALF` (20_memory.md R51). -/
def blockNumber (dir : Dir) (ch : Channel) (half : Bool) : Nat := (dir.bit.toNat * 2 + ch.bit.toNat) * 2 + half.toNat

theorem flatAddress_eq (c : Config) (dir : Dir) (ch : Channel) (half : Bool) (off : BitVec 16) :
    flatAddress c dir ch half off = blockNumber dir ch half * c.ns + off.toNat := rfl

theorem blockNumber_lt (dir : Dir) (ch : Channel) (half : Bool) : blockNumber dir ch half < 8 := by
  have hd := dir.bit.toNat_le
  have hc := ch.bit.toNat_le
  have hh := half.toNat_le
  unfold blockNumber
  omega

/-- Every number below 8 is some half-buffer's: the one its three bits name. -/
theorem exists_blockNumber_eq {k : Nat} (h : k < 8) : ∃ dir ch half, blockNumber dir ch half = k := by
  refine ⟨Dir.ofBit (k.testBit 2), Channel.ofBit (k.testBit 1), k.testBit 0, ?_⟩
  revert k
  decide

/-- Conversely, the three bits of a half-buffer's number are its DIR, CH and HALF. -/
theorem ofBits_blockNumber (dir : Dir) (ch : Channel) (half : Bool) :
    Dir.ofBit ((blockNumber dir ch half).testBit 2) = dir ∧ Channel.ofBit ((blockNumber dir ch half).testBit 1) = ch ∧
    (blockNumber dir ch half).testBit 0 = half := by
  cases dir <;> cases ch <;> cases half <;> decide

theorem blockNumber_inj {dir dir' : Dir} {ch ch' : Channel} {half half' : Bool}
    (h : blockNumber dir ch half = blockNumber dir' ch' half') : dir = dir' ∧ ch = ch' ∧ half = half' := by
  obtain ⟨hd, hc, hh⟩ := ofBits_blockNumber dir ch half
  obtain ⟨hd', hc', hh'⟩ := ofBits_blockNumber dir' ch' half'
  rw [h] at hd hc hh
  exact ⟨hd.symm.trans hd', hc.symm.trans hc', hh.symm.trans hh'⟩

section
variable {c : Config} {off : BitVec 16} (h : off.toNat < c.ns)
include h

theorem flatAddress_div_ns (dir : Dir) (ch : Channel) (half : Bool) :
    flatAddress c dir ch half off / c.ns = blockNumber dir ch half := by
  rw [flatAddress_eq, Nat.add_comm, Nat.add_mul_div_right _ _ (ns_pos c), Nat.div_eq_of_lt h, Nat.zero_add]

theorem flatAddress_mod_ns (dir : Dir) (ch : Channel) (half : Bool) : flatAddress c dir ch half off % c.ns = off.toNat := by
  rw [flatAddress_eq, Nat.mul_comm, Nat.mul_add_mod, Nat.mod_eq_of_lt h]

/-- Every word of BUF lies below 8 * P_NS. -/
theorem flatAddress_lt (dir : Dir) (ch : Channel) (half : Bool) : flatAddress c dir ch half off < 8 * c.ns := by
  have hb : (blockNumber dir ch half + 1) * c.ns ≤ 8 * c.ns := Nat.mul_le_mul_right _ (blockNumber_lt dir ch half)
  rw [Nat.succ_mul] at hb
  rw [flatAddress_eq]
  omega

end

/-- No two words of BUF share a flat address. -/
theorem flatAddress_inj {c : Config} {dir dir' : Dir} {ch ch' : Channel} {half half' : Bool} {off off' : BitVec 16}
    (h : off.toNat < c.ns) (h' : off'.toNat < c.ns) (heq : flatAddress c dir ch half off = flatAddress c dir' ch' half' off') :
    dir = dir' ∧ ch = ch' ∧ half = half' ∧ off = off' := by
  have hblock := flatAddress_div_ns h dir ch half
  have hoff := flatAddress_mod_ns h dir ch half
  rw [heq, flatAddress_div_ns h'] at hblock
  rw [heq, flatAddress_mod_ns h'] at hoff
  obtain ⟨hd, hc, hh⟩ := blockNumber_inj hblock
  exact ⟨hd.symm, hc.symm, hh.symm, (BitVec.eq_of_toNat_eq hoff).symm⟩

/-- Every address below 8 * P_NS is some word's. -/
theorem exists_flatAddress_eq {c : Config} {a : Nat} (h : a < 8 * c.ns) :
    ∃ dir ch half, ∃ off : BitVec 16, off.toNat < c.ns ∧ flatAddress c dir ch half off = a := by
  have hmod : a % c.ns < c.ns := Nat.mod_lt _ (ns_pos c)
  have hoff : (BitVec.ofNat 16 (a % c.ns)).toNat = a % c.ns := Nat.mod_eq_of_lt (hmod.trans_le (ns_le c))
  obtain ⟨dir, ch, half, hblock⟩ := exists_blockNumber_eq (Nat.div_lt_of_lt_mul (Nat.mul_comm 8 c.ns ▸ h))
  refine ⟨dir, ch, half, BitVec.ofNat 16 (a % c.ns), hoff.trans_lt hmod, ?_⟩
  rw [flatAddress_eq, hblock, hoff]
  exact Nat.div_add_mod' a c.ns

/-- Settles O30: division by P_NS recovers the half-buffer and the offset from the flat address, and conversely. -/
theorem flatAddressesAreDistinctAndInRange : Obligations.FlatAddressesAreDistinctAndInRange := by
  intro c
  have hpos := ns_pos c
  refine ⟨fun dir ch half off h => ⟨flatAddress_eq .., Nat.le_sub_one_of_lt (flatAddress_lt h ..)⟩,
    fun _ _ _ _ _ _ _ _ h h' => flatAddress_inj h h', fun a ha => exists_flatAddress_eq (by omega), ?_, ?_⟩
  · simp [flatAddress_eq, blockNumber, Dir.bit, Channel.bit]
  · simp [flatAddress_eq, blockNumber, Dir.bit, Channel.bit]

end Sys2Proof.Machine
end

section
/-! What a step can do to BUF, said once: it leaves BUF as it is or stores one sample at a word whose owner writes it (20_memory.md
R52, R53, R55). -/

namespace Sys2Proof.Machine

@[simp] theorem applyEvent_buf (tc : Bool) (s : State) : (applyEvent tc s).buf = s.buf := by unfold applyEvent; split <;> rfl
@[simp] theorem deliverBlock_buf (tmo : BitVec 24) (s : State) : (deliverBlock tmo s).buf = s.buf := respond_buf ..
@[simp] theorem finishDrain_buf (tmo : BitVec 24) (s : State) : (finishDrain tmo s).buf = s.buf := respond_buf ..

/-- Whoever writes this direction owns this half: ENG writes the input words, CONS the output words (20_memory.md R52). -/
def OwnerWrites (s : State) (dir : Dir) (half : Bool) : Prop :=
  (dir = .input ∧ engineMayAccess s half) ∨ (dir = .output ∧ consumerMayAccess s half)

theorem SameHardware.held {s a : State} (h : SameHardware s a) : a.held = s.held := congrArg Control.held h.control

/-- Ownership is the PPBA's own: it does not depend on the agents' side. -/
theorem SameHardware.ownerWrites {s a : State} (h : SameHardware s a) {dir : Dir} {half : Bool} (ho : OwnerWrites a dir half) :
    OwnerWrites s dir half := by
  simpa only [OwnerWrites, engineMayAccess, consumerMayAccess, h.engEn, h.bufIdx, h.held] using ho

/-- BUF `n` is BUF `m` of state `s`, or `m` with one sample stored by the owner of its word. -/
def OwnedStore (s : State) (m n : Memory) : Prop :=
  n = m ∨ ∃ dir ch half off dw, off.toNat < s.cfg.ns ∧ OwnerWrites s dir half ∧
    n = m.set (flatAddress s.cfg dir ch half off) (sampleOf s.cfg dw)

/-- Of the ways to act only the write touches BUF. -/
theorem RuleStep.buf {s t : State} (h : RuleStep s t) : OwnedStore s s.buf t.buf := by
  cases h with
  | write i dir ch half off dw hoff hown => exact .inr ⟨dir, ch, half, off, dw, hoff, hown, by simp⟩
  | _ => exact .inl (by simp)

/-- A step leaves BUF as it is, or stores one sample at a word of its owner. -/
theorem step_buf {s t : State} (h : step s = .next t) : OwnedStore s s.buf t.buf := by
  obtain ⟨a, ha, hr⟩ := step_rule h
  rw [← ha.buf]
  rcases hr.buf with hsame | ⟨dir, ch, half, off, dw, hoff, hown, hset⟩
  · exact .inl hsame
  · rw [ha.cfg] at hoff hset
    exact .inr ⟨dir, ch, half, off, dw, hoff, ha.ownerWrites hown, hset⟩

theorem step_cfg {s t : State} (h : step s = .next t) : t.cfg = s.cfg := by
  obtain ⟨a, ha, hr⟩ := step_rule h
  exact hr.cfg.trans ha.cfg

/-- Settles O31: the one word a step may store lies inside BUF and is a sample. -/
theorem stepKeepsBufWellFormed : Obligations.StepKeepsBufWellFormed := by
  intro s t hs h
  obtain ⟨hwf, hcells⟩ := hs
  unfold BufWellFormed
  rw [step_cfg h]
  rcases step_buf h with hsame | ⟨dir, ch, half, off, dw, hoff, _, hset⟩
  · rw [hsame]
    exact ⟨hwf, hcells⟩
  · rw [hset]
    refine ⟨Memory.wf_set hwf _ _, fun cell hcell => ?_⟩
    rcases Memory.mem_set hcell with hold | rfl
    · exact hcells cell hold
    · exact ⟨flatAddress_lt hoff .., sampleOf_lt ..⟩

/-- Settles O32: an address that reads differently is the one stored to, and its word belongs to the one who writes it. -/
theorem onlyOwnersWriteTheirHalf : Obligations.OnlyOwnersWriteTheirHalf := by
  intro s t h a hne
  rcases step_buf h with hsame | ⟨dir, ch, half, off, dw, hoff, hown, hset⟩
  · exact absurd (by rw [hsame]) hne
  have ha : a = flatAddress s.cfg dir ch half off := by
    by_contra hother
    exact hne (by rw [hset, Memory.get_set_other _ _ hother])
  rcases hown with ⟨rfl, heng⟩ | ⟨rfl, hcons⟩
  · exact .inl ⟨ch, half, off, heng, hoff, ha⟩
  · exact .inr ⟨ch, half, off, hcons, hoff, ha⟩

/-- In Idle neither the engine nor the consumer may access any half (20_memory.md R52). -/
theorem Coherent.no_owner_in_idle {s : State} (hs : Coherent s) (hi : s.state = .idle) :
    s.engEn = false ∧ s.held.valid = false :=
  ⟨hs.offAtRest (.inl hi), (hs.nothingInIdle hi).2⟩

/-- Settles O33: the engine's half is not BUFIDX and the consumer's is, and a coherent Idle state has neither owner. -/
theorem ownersNeverShareAHalf : Obligations.OwnersNeverShareAHalf := by
  intro s hs
  refine ⟨?_, fun hidle h => ?_⟩
  · rintro h h' ⟨_, heng⟩ ⟨hvalid, hovr, hcons⟩ hsame
    have hbuf : h' = s.bufIdx := hcons.trans (hs.heldIsLatest hvalid hovr)
    exact Bool.not_ne_self s.bufIdx (heng.symm.trans (hsame.trans hbuf))
  · obtain ⟨hoff, hnone⟩ := hs.no_owner_in_idle hidle
    exact ⟨fun heng => ne_true_of_eq_false hoff heng.1, fun hcons => ne_true_of_eq_false hnone hcons.1⟩

/-- Settles O34: a step stores to BUF only for an owner, and a coherent Idle state has none. -/
theorem dumpIsStableInIdle : Obligations.DumpIsStableInIdle := by
  intro s t hs hidle h
  obtain ⟨hoff, hnone⟩ := hs.no_owner_in_idle hidle
  refine ⟨hoff, hnone, ?_⟩
  rcases step_buf h with hsame | ⟨_, _, half, _, _, _, hown, _⟩
  · exact hsame
  · obtain ⟨_, honly⟩ := ownersNeverShareAHalf s hs
    rcases hown with ⟨_, heng⟩ | ⟨_, hcons⟩
    · exact absurd heng (honly hidle half).1
    · exact absurd hcons (honly hidle half).2

end Sys2Proof.Machine
end

section
/-! A turn that names a step its agent cannot take now is used up and changes nothing (log 4): one lemma per kind of turn. -/

namespace Sys2Proof.Machine

/-- A port with an outstanding command, or without a whole command, takes none (30_encoding.md R85). -/
theorem takeCommand_of_not_enabled {p : Port} {s : State} (h : turnEnabled (.command p) s = false) : takeCommand p s = .next s := by
  unfold takeCommand
  split
  · rfl
  · next hpend =>
    have hnone : nextCommand (s.port p).stream = none := by simpa [turnEnabled, hpend] using h
    rw [hnone]

theorem deliveryStep_of_not_enabled {s : State} (h : turnEnabled .deliver s = false) : deliveryStep s = s := by
  unfold deliveryStep
  split
  · rfl
  · next hpend =>
    have hempty : s.slot.full = false := by simpa [turnEnabled, hpend] using h
    simp [hempty]

theorem takeTimeoutStep_of_not_enabled {s : State} (h : turnEnabled .takeTimeout s = false) : takeTimeoutStep s = s := by
  unfold takeTimeoutStep
  split
  · rfl
  · next tmo hpend =>
    have hguard : (isFinite tmo && !s.slot.full) = false := by simpa [turnEnabled, hpend] using h
    simp [hguard]

theorem finishStep_of_not_enabled {s : State} (h : turnEnabled .finish s = false) : finishStep s = s := by
  unfold finishStep
  split
  · rfl
  · next hpend =>
    have hsignal : s.drainDone = false := by simpa [turnEnabled, hpend] using h
    simp [hsignal]

theorem drainTimeoutStep_of_not_enabled {s : State} (h : turnEnabled .drainTimeout s = false) : drainTimeoutStep s = s := by
  unfold drainTimeoutStep
  split
  · rfl
  · next tmo hpend =>
    have hguard : (isFinite tmo && !s.drainDone) = false := by simpa [turnEnabled, hpend] using h
    simp [hguard]

/-- The reference engine stays outside the accesses of its period, and while a word stands on port E (40_engine.md R108). -/
theorem engineMove_of_not_enabled {m : EngineMove} {s : State} (h : engineEnabled m s = false) : engineMove m s = .next s := by
  unfold engineMove
  split
  · rfl
  · next hfree =>
    have hfree' : (s.engEn && s.portE.stream.isEmpty) = true := by simpa using hfree
    simp only [engineEnabled, hfree', Bool.true_and] at h
    cases m <;> exact if_neg (ne_true_of_eq_false h)

/-- The reference consumer stays outside the moves of its loop, and while a command of port C is not completed (42_processor.md R138). -/
theorem consumerMove_of_not_enabled {m : ConsumerMove} {s : State} (h : consumerEnabled m s = false) :
    consumerMove m s = .next s := by
  unfold consumerMove
  split
  · rfl
  · next hfree =>
    have hfree' : (s.portC.stream.isEmpty && s.pendC.isNone) = true := by simpa using hfree
    simp only [consumerEnabled, hfree', Bool.true_and] at h
    cases m <;> exact if_neg (ne_true_of_eq_false h)

/-- Settles O12, by the kind of the turn. -/
theorem disabledTurnChangesNothing : Obligations.DisabledTurnChangesNothing := by
  intro u s h
  cases u with
  | command p => exact takeCommand_of_not_enabled h
  | deliver => exact congrArg _ (deliveryStep_of_not_enabled h)
  | takeTimeout => exact congrArg _ (takeTimeoutStep_of_not_enabled h)
  | finish => exact congrArg _ (finishStep_of_not_enabled h)
  | drainTimeout => exact congrArg _ (drainTimeoutStep_of_not_enabled h)
  | engine m => exact engineMove_of_not_enabled h
  | consumer m => exact consumerMove_of_not_enabled h

end Sys2Proof.Machine
end

section
/-! The fields of a command word as masks (30_encoding.md R70, R74 to R81): OP, the operand fields and the reserved bits of a format
make up the word. -/

namespace Sys2Proof

/-- The mask of a field of `len` bits whose lowest is bit `lo`. -/
def fieldMask (lo len : Nat) : Word := (BitVec.allOnes len).setWidth 32 <<< lo

theorem getLsbD_fieldMask (lo len k : Nat) :
    (fieldMask lo len).getLsbD k = (decide (k < 32) && decide (lo ≤ k) && decide (k < lo + len)) := by
  simp only [fieldMask, BitVec.getLsbD_shiftLeft, BitVec.getLsbD_setWidth, BitVec.getLsbD_allOnes]
  grind

/-- A field read from a word and put back at its place is the word under the field's mask. -/
theorem field_shiftLeft (cw : Word) (lo len : Nat) :
    (cw.extractLsb' lo len).setWidth 32 <<< lo = cw &&& fieldMask lo len := by
  apply BitVec.eq_of_getLsbD_eq
  intro k hk
  simp only [BitVec.getLsbD_shiftLeft, BitVec.getLsbD_setWidth, BitVec.getLsbD_extractLsb', BitVec.getLsbD_and,
    getLsbD_fieldMask]
  by_cases hlo : lo ≤ k
  · grind
  · simp [hlo]

theorem extractLsb'_one (cw : Word) (k : Nat) : cw.extractLsb' k 1 = BitVec.ofBool (cw.getLsbD k) := by
  apply BitVec.eq_of_getLsbD_eq
  intro j hj
  obtain rfl : j = 0 := by omega
  simp

theorem extractLsb'_one_eq_zero_iff (cw : Word) (k : Nat) : cw.extractLsb' k 1 = 0#1 ↔ cw.getLsbD k = false := by
  rw [extractLsb'_one]
  cases cw.getLsbD k <;> decide

theorem bit_shiftLeft (cw : Word) (k : Nat) : bit32 (cw.getLsbD k) <<< k = cw &&& fieldMask k 1 := by
  rw [← field_shiftLeft, extractLsb'_one]
  cases cw.getLsbD k <;> rfl

/-- The lowest field needs no shift. -/
theorem field_zero (cw : Word) (len : Nat) : (cw.extractLsb' 0 len).setWidth 32 = cw &&& fieldMask 0 len := by
  rw [← field_shiftLeft, BitVec.shiftLeft_zero]

theorem bit_zero (cw : Word) : bit32 (cw.getLsbD 0) = cw &&& fieldMask 0 1 := by
  rw [← bit_shiftLeft, BitVec.shiftLeft_zero]

/-- A word is 0 under a field's mask exactly when the field is 0. -/
theorem and_fieldMask_eq_zero_iff {cw : Word} {lo len : Nat} (h : lo + len ≤ 32) :
    cw &&& fieldMask lo len = 0#32 ↔ cw.extractLsb' lo len = 0#len := by
  rw [← field_shiftLeft]
  constructor
  · intro hword
    apply BitVec.eq_of_getLsbD_eq
    intro k hk
    have hbit := congrArg (fun w => w.getLsbD (lo + k)) hword
    have hlt : lo + k < 32 := by omega
    simpa [hk, hlt] using hbit
  · intro hfield
    simp [hfield]

/-- The operand fields of a format. -/
def Format.operandMask : Format → Word
  | .n => 0#32
  | .s => fieldMask 0 1
  | .e => fieldMask 0 1
  | .t => fieldMask 0 24
  | .r => fieldMask 20 6 ||| fieldMask 0 20
  | .ah => fieldMask 27 1 ||| fieldMask 26 1 ||| fieldMask 25 1 ||| fieldMask 0 16
  | .ac => fieldMask 26 1 ||| fieldMask 0 16
  | .ae => fieldMask 26 1 ||| fieldMask 25 1 ||| fieldMask 0 16

/-- The reserved bits of a format. -/
def Format.reservedMask : Format → Word
  | .n => fieldMask 0 28
  | .s => fieldMask 1 27
  | .e => fieldMask 1 27
  | .t => fieldMask 24 4
  | .r => fieldMask 26 2
  | .ah => fieldMask 16 9
  | .ac => fieldMask 27 1 ||| fieldMask 16 10
  | .ae => fieldMask 27 1 ||| fieldMask 16 9

/-- The operand fields are the bits that the model's mask leaves free. -/
theorem Format.operandMask_eq (f : Format) : f.operandMask = ~~~f.mask := by cases f <;> rfl

/-- The bits that the model's mask fixes are OP and the reserved bits. -/
theorem Format.mask_eq (f : Format) : f.mask = fieldMask 28 4 ||| f.reservedMask := by cases f <;> rfl

theorem Opcode.pattern_and_reservedMask (op : Opcode) : op.pattern &&& op.format.reservedMask = 0#32 := by cases op <;> rfl

/-- The OP field at its place is the opcode's pattern. -/
theorem and_opMask_eq_pattern {op : Opcode} {cw : Word} (h : opField cw = op.bits) : cw &&& fieldMask 28 4 = op.pattern := by
  rw [← field_shiftLeft, Opcode.pattern, ← h, opField]

/-- A word that carries an opcode has its format's fixed bits exactly when every reserved bit is 0. -/
theorem fixed_iff_reserved_zero {op : Opcode} {cw : Word} (h : opField cw = op.bits) :
    cw &&& op.format.mask = op.pattern ↔ cw &&& op.format.reservedMask = 0#32 := by
  rw [op.format.mask_eq, BitVec.and_or_distrib_left, and_opMask_eq_pattern h]
  constructor
  · intro hfixed
    have hreserved := congrArg (· &&& op.format.reservedMask) hfixed
    simpa [BitVec.and_or_distrib_right, BitVec.and_assoc, op.pattern_and_reservedMask] using hreserved
  · intro hzero
    rw [hzero, BitVec.or_zero]

/-- The word of the operands read from `cw` is the opcode's pattern with the operand fields of `cw`. -/
theorem cw_operandsOf (op : Opcode) (cw dw : Word) :
    (operandsOf op cw dw).cw = op.pattern ||| (cw &&& op.format.operandMask) := by
  cases op <;>
    simp only [operandsOf, Instr.cw, Opcode.format, Format.operandMask, Dir.bit_ofBit, Channel.bit_ofBit, field_shiftLeft,
      field_zero, bit_shiftLeft, bit_zero, BitVec.and_or_distrib_left, BitVec.or_assoc, BitVec.and_zero, BitVec.or_zero] <;>
    rfl

/-- A word with its format's fixed bits is the word of its own operands: no bit is lost. -/
theorem cw_operandsOf_of_fixed {op : Opcode} {cw : Word} (h : cw &&& op.format.mask = op.pattern) (dw : Word) :
    (operandsOf op cw dw).cw = cw := by
  rw [cw_operandsOf, ← h, Format.operandMask_eq, ← BitVec.and_or_distrib_left, BitVec.or_not_self, BitVec.and_allOnes]

end Sys2Proof
end

section
/-! The decoder and the encoder are inverse to each other (30_encoding.md R86, R74 to R81). -/

namespace Sys2Proof

/-- A word decodes exactly when its OP names a command of the port, its fixed bits are the format's and its OFF is in range. -/
theorem decode_eq_ok_iff {c : Config} {p : Port} {cw dw : Word} {i : Instr} :
    decode c p cw dw = .ok i ↔
      ∃ op, Opcode.ofBits (opField cw) = some op ∧ op.port = p ∧ cw &&& op.format.mask = op.pattern ∧
        operandsOf op cw dw = i ∧ i.wf c = true := by
  unfold decode
  cases Opcode.ofBits (opField cw) with
  | none => simp
  | some op =>
    simp only [Option.some.injEq, exists_eq_left']
    split_ifs with hport hfixed hwf
    · simp [hport]
    · simp [hfixed]
    · have hfixed' := not_ne_iff.mp hfixed
      constructor
      · intro h
        cases h
        exact ⟨not_ne_iff.mp hport, hfixed', rfl, hwf⟩
      · rintro ⟨_, _, rfl, _⟩
        rfl
    · constructor
      · nofun
      · rintro ⟨_, _, rfl, hwf'⟩
        exact absurd hwf' hwf

/-- The operands of a one-word command do not depend on what stands in the place of a data word. -/
theorem operandsOf_cw_getD (i : Instr) (dw : Word) : operandsOf i.opcode i.cw (i.dw.getD dw) = i := by
  refine Eq.trans ?_ (operandsOf_cw i)
  cases i <;> rfl

theorem decode_cw {c : Config} {i : Instr} (h : i.wf c = true) (dw : Word) :
    decode c i.port i.cw (i.dw.getD dw) = .ok i :=
  decode_eq_ok_iff.mpr
    ⟨i.opcode, by rw [opField_cw, Opcode.ofBits_bits], rfl, cw_fixed i, operandsOf_cw_getD i dw, h⟩

/-- Settles O3: OP, the fixed bits and the operands read from a command's words are the command's own. -/
theorem decodeOfEncodeIsTheCommand : Obligations.DecodeOfEncodeIsTheCommand := fun _ _ h => decode_cw h 0#32

/-- What decodes is of the port it arrived on (30_encoding.md R73). -/
theorem port_of_decode {c : Config} {p : Port} {cw dw : Word} {i : Instr} (h : decode c p cw dw = .ok i) : i.port = p := by
  obtain ⟨op, _, hport, _, rfl, _⟩ := decode_eq_ok_iff.mp h
  rw [Instr.port, opcode_operandsOf, hport]

/-- The data word of a decoded command, if it has one, is the one that arrived with it. -/
theorem dw_operandsOf (op : Opcode) (cw dw : Word) :
    (operandsOf op cw dw).dw = if (operandsOf op cw dw).dw.isSome then some dw else none := by
  cases op <;> rfl

/-- Settles O4: fixed bits and operand fields make up the whole word, and its OP says whether a data word follows. -/
theorem encodeOfDecodeIsTheWords : Obligations.EncodeOfDecodeIsTheWords := by
  intro c p cw dw i h
  have hport := port_of_decode h
  obtain ⟨op, _, _, hfixed, rfl, hwf⟩ := decode_eq_ok_iff.mp h
  refine ⟨hwf, hport, ?_⟩
  have hlength := twoWords_cw (operandsOf op cw dw)
  rw [cw_operandsOf_of_fixed hfixed] at hlength
  rw [encode, cw_operandsOf_of_fixed hfixed, dw_operandsOf, hlength]
  split <;> rfl

/-- Settles O5: each word is the encoding of its command, whose OFF, if it has one, is at most 5. -/
theorem encodingExamplesDecode : Obligations.EncodingExamplesDecode := by
  intro c dw hns
  have small (off : BitVec 16) (h : off.toNat ≤ 5) : decide (off.toNat < c.ns) = true := decide_eq_true (by omega)
  exact ⟨decode_cw (i := .init) rfl dw, decode_cw (i := .start) rfl dw, decode_cw (i := .stop) rfl dw,
    decode_cw (i := .wdrain 0xFFFFFF#24) rfl dw, decode_cw (i := .reconf 32000#20 24#6) rfl dw,
    decode_cw (i := .reconf 48000#20 16#6) rfl dw, decode_cw (i := .stat false) rfl dw,
    decode_cw (i := .bufrd .output .right true 2#16) (small 2#16 (by decide)) dw,
    decode_cw (i := .take 0xFFFFFF#24) rfl dw, decode_cw (i := .take 100#24) rfl dw, decode_cw (i := .done) rfl dw,
    decode_cw (i := .crd .right 5#16) (small 5#16 (by decide)) dw,
    decode_cw (i := .cwr .left 0#16 0x1234#32) (small 0#16 (by decide)) dw, decode_cw (i := .evt true) rfl dw,
    decode_cw (i := .ewr .right true 3#16 7#32) (small 3#16 (by decide)) dw,
    decode_cw (i := .erd .left false 0#16) (small 0#16 (by decide)) dw⟩

end Sys2Proof
end

section
/-! The decoder refuses a word for the four causes of 30_encoding.md R83 and no other. -/

namespace Sys2Proof.Machine

theorem ofBits_eq_none_iff (b : BitVec 4) : Opcode.ofBits b = none ↔ b.toNat = 0x0 ∨ b.toNat = 0xF := by
  revert b
  decide

theorem accepts_bits (p : Port) (op : Opcode) : accepts p op.bits.toNat = decide (op.port = p) := by
  cases p <;> cases op <;> rfl

/-- The reserved bits that R74 to R81 list are those of the format's mask. -/
theorem reservedBitSet_eq_false_iff {op : Opcode} {cw : Word} (h : opField cw = op.bits) :
    reservedBitSet cw = false ↔ cw &&& op.format.mask = op.pattern := by
  rw [fixed_iff_reserved_zero h]
  rw [opField] at h
  rw [reservedBitSet, h]
  cases op <;>
    simp [Opcode.bits, Opcode.format, Format.reservedMask, BitVec.and_or_distrib_left, and_fieldMask_eq_zero_iff,
      extractLsb'_one_eq_zero_iff]

theorem offset_operandsOf (op : Opcode) (cw dw : Word) :
    (operandsOf op cw dw).offset = if hasOffset op.bits.toNat then some (cw.extractLsb' 0 16) else none := by
  cases op <;> rfl

/-- The operands read from a word are well formed unless they have an OFF outside the block. -/
theorem wf_operandsOf_iff (c : Config) (op : Opcode) (cw dw : Word) :
    (operandsOf op cw dw).wf c = true ↔ ¬ (hasOffset op.bits.toNat = true ∧ c.ns ≤ (cw.extractLsb' 0 16).toNat) := by
  rw [Instr.wf, offset_operandsOf]
  cases hasOffset op.bits.toNat <;> simp

/-- A word that names a command is legal when the decoder's three remaining checks pass. -/
theorem not_illegalWord_iff {c : Config} {p : Port} {op : Opcode} {cw : Word} (h : Opcode.ofBits (opField cw) = some op)
    (dw : Word) :
    ¬ IllegalWord c p cw ↔
      op.port = p ∧ cw &&& op.format.mask = op.pattern ∧ (operandsOf op cw dw).wf c = true := by
  have hbits := (Opcode.bits_of_ofBits h).symm
  have hnamed : ¬ (op.bits.toNat = 0x0 ∨ op.bits.toNat = 0xF) := by
    rw [← ofBits_eq_none_iff, Opcode.ofBits_bits]
    nofun
  rw [← reservedBitSet_eq_false_iff hbits, wf_operandsOf_iff]
  rw [opField] at hbits
  rw [IllegalWord, hbits, accepts_bits, ← or_assoc, or_iff_right hnamed]
  simp only [not_or, decide_eq_false_iff_not, not_not, Bool.not_eq_true]

/-- A word decodes to some command exactly when no cause of ILLEGAL holds. -/
theorem exists_decode_eq_ok_iff (c : Config) (p : Port) (cw dw : Word) :
    (∃ i, decode c p cw dw = .ok i) ↔ ¬ IllegalWord c p cw := by
  simp only [decode_eq_ok_iff]
  cases h : Opcode.ofBits (opField cw) with
  | none =>
    have hillegal : IllegalWord c p cw := ((ofBits_eq_none_iff _).mp h).imp_right .inl
    simpa using hillegal
  | some op =>
    rw [not_illegalWord_iff h dw]
    simp

/-- Settles O6: the decoder answers a command or an error, and a command exactly for the words with no cause of ILLEGAL. -/
theorem decoderRefusesExactlyTheIllegalWords : Obligations.DecoderRefusesExactlyTheIllegalWords := by
  intro c p cw dw
  rw [← not_iff_not, ← exists_decode_eq_ok_iff c p cw dw]
  cases decode c p cw dw <;> simp

end Sys2Proof.Machine
end

section
/-! How a port takes its next command (30_encoding.md R71, R83, R85). -/

namespace Sys2Proof.Machine

/-- A command is two words long exactly when its OP is 0xB or 0xD (30_encoding.md R71). -/
theorem twoWords_iff (cw : Word) :
    twoWords cw = true ↔ (cw.extractLsb' 28 4).toNat = 0xB ∨ (cw.extractLsb' 28 4).toNat = 0xD := by
  rw [twoWords, opField, Bool.or_eq_true, beq_iff_eq, beq_iff_eq, ← BitVec.toNat_inj, ← BitVec.toNat_inj]
  rfl

/-- Settles O8: the OP alone says whether the port waits for a data word. -/
theorem commandLengthIsFixedByOp : Obligations.CommandLengthIsFixedByOp := by
  intro cw rest
  refine ⟨fun hop => ?_, fun hB hD => ?_⟩
  · have htwo := (twoWords_iff cw).mpr hop
    exact ⟨fun dw => by simp [nextCommand, htwo], by simp [nextCommand, htwo]⟩
  · have hone : ¬ twoWords cw = true := fun htwo => ((twoWords_iff cw).mp htwo).elim hB hD
    simp [nextCommand, hone]

/-- The command a port takes has a data word exactly when its OP says so. -/
theorem isSome_of_nextCommand {words : List Word} {cw : Word} {dw : Option Word} (h : nextCommand words = some (cw, dw)) :
    dw.isSome = twoWords cw := by
  unfold nextCommand at h
  split at h
  · cases h
  split at h
  · next htwo =>
    split at h <;> cases h
    exact htwo.symm
  · next hone =>
    cases h
    exact (Bool.eq_false_of_not_eq_true hone).symm

/-- A free port whose next command has arrived runs it. -/
theorem takeCommand_eq_runCommand {s : State} {p : Port} {cw : Word} {dw : Option Word} (hp : s.pending p = none)
    (hn : nextCommand (s.port p).stream = some (cw, dw)) : takeCommand p s = runCommand p cw dw s := by
  simp [takeCommand, hp, hn]

/-- Settles O10: the outstanding command is the first thing the port's turn looks at. -/
theorem pendingPortTakesNoCommand : Obligations.PendingPortTakesNoCommand := by
  intro s p h
  obtain ⟨tmo, hp⟩ := Option.ne_none_iff_exists'.mp h
  simp [takeCommand, hp]

theorem runCommand_of_decode_ok {s : State} {p : Port} {cw : Word} {dw : Option Word} {i : Instr}
    (h : decode s.cfg p cw (dw.getD 0#32) = .ok i) : runCommand p cw dw s = exec i s := by
  rw [runCommand, h]

theorem runCommand_of_decode_error {s : State} {p : Port} {cw : Word} {dw : Option Word} {e : DecodeError}
    (h : decode s.cfg p cw (dw.getD 0#32) = .error e) :
    runCommand p cw dw s = .next (complete p cw dw .illegal 0#32 false s) := by
  rw [runCommand, h]

/-- Settles O9: moving the schedule on changes neither the port nor the machine's parameters. -/
theorem stepRunsTheDecodedCommand : Obligations.StepRunsTheDecodedCommand := by
  intro s p ts cw dw i hs hp hn hd
  have hturn : step s = takeCommand p (s.setSched ts) := by rw [step, hs]; rfl
  rw [hturn, takeCommand_eq_runCommand ((setSched_pending s ts p).trans hp) (by rw [setSched_port, hn])]
  exact runCommand_of_decode_ok hd

/-- A completion touches HIST and its own port only. -/
theorem complete_frame (p : Port) (cw : Word) (dw : Option Word) (sts : Status) (data : Word) (drawn : Bool) (s : State) :
    { complete p cw dw sts data drawn s with hist := s.hist, portH := s.portH, portC := s.portC, portE := s.portE } = s := by
  cases p <;> rfl

/-- Settles O7: a command with a cause of ILLEGAL does not decode, so all the port does is complete it. -/
theorem illegalCommandOnlyCompletes : Obligations.IllegalCommandOnlyCompletes := by
  intro s p cw dw hp hn hi
  obtain ⟨e, he⟩ := (decoderRefusesExactlyTheIllegalWords s.cfg p cw (dw.getD 0#32)).mpr hi
  have hlength : 1 + dw.toList.length = if twoWords cw then 2 else 1 := by
    rw [← isSome_of_nextCommand hn]
    cases dw <;> rfl
  refine ⟨complete p cw dw .illegal 0#32 false s, ?_, complete_hist .., ?_, ?_, ?_, complete_frame ..⟩
  · rw [takeCommand_eq_runCommand hp hn, runCommand_of_decode_error he]
  · rw [complete_port_same]
  · rw [complete_port_same, hlength]
  · exact fun p' hne => complete_port_other _ _ _ _ _ _ hne

end Sys2Proof.Machine
end

section
/-! An enabled turn leaves its mark: a command record, an outstanding command or a recorded fault (30_encoding.md R85,
60_exceptions.md R187). -/

namespace Sys2Proof.Machine

/-- From `s` to `t` a command has completed, one has become outstanding, or a fault stands recorded. -/
def Progress (s t : State) : Prop :=
  (∃ l r, t.hist = s.hist ++ l ++ [.command r]) ∨
  (s.pendH = none ∧ t.pendH ≠ none) ∨ (s.pendC = none ∧ t.pendC ≠ none) ∨ ¬ t.FaultFree

/-- The result is a next state with progress from `s`. -/
def Progresses (s : State) (r : Result) : Prop := ∃ t, r = .next t ∧ Progress s t

/-- A response completes a command, whatever output events came before it. -/
theorem Progresses.completed {s a : State} {p : Port} {cw : Word} {dw : Option Word} {sts : Status} {data : Word} {drawn : Bool}
    (h : s.hist <+: a.hist) : Progresses s (.next (complete p cw dw sts data drawn a)) := by
  obtain ⟨l, hl⟩ := h
  exact ⟨_, rfl, .inl ⟨l, _, by rw [complete_hist, hl]⟩⟩

theorem Progresses.answered {s a : State} {i : Instr} {sts : Status} {data : Word} (h : s.hist <+: a.hist) :
    Progresses s (.next (respond i sts data a)) := .completed h

theorem Progresses.read (s : State) (i : Instr) (dir : Dir) (ch : Channel) (half : Bool) (off : BitVec 16) :
    Progresses s (.next (respondRead i dir ch half off s)) := by
  unfold respondRead
  split <;> exact .completed List.prefix_rfl

theorem Progresses.faulted (s : State) (f : ModelFault) : Progresses s (.next (raiseFault f s)) := by
  refine ⟨_, rfl, .inr (.inr (.inr ?_))⟩
  cases f <;> simp [State.FaultFree, Faults.insert, Faults.none]

/-- A check makes progress when both of its branches do. -/
theorem Progresses.ite {s : State} {c : Prop} [Decidable c] {a b : Result} (ha : Progresses s a) (hb : Progresses s b) :
    Progresses s (if c then a else b) := by
  split
  · exact ha
  · exact hb

theorem Progresses.guarded {s : State} {c : Bool} {a b : Result} (hc : c = true) (ha : Progresses s a) :
    Progresses s (if c then a else b) := by
  rw [if_pos hc]
  exact ha

/-- Every command rule responds, waits on a port where nothing was outstanding, or raises a fault. -/
theorem exec_progresses {i : Instr} {s : State} (h : s.pending i.port = none) : Progresses s (exec i s) := by
  have same {i' : Instr} {sts : Status} {data : Word} : Progresses s (.next (respond i' sts data s)) :=
    .answered List.prefix_rfl
  cases i with
  | init => exact .ite same (.answered ⟨_, rfl⟩)
  | start => exact .ite same (.answered ⟨_, rfl⟩)
  | stop => exact .ite same (.answered List.prefix_rfl)
  | wdrain tmo =>
    refine .ite same (.ite (.answered List.prefix_rfl) (.ite same ?_))
    exact ⟨_, rfl, .inr (.inl ⟨h, Option.some_ne_none tmo⟩)⟩
  | reconf rate size => exact .ite same (.answered ⟨_, rfl⟩)
  | stat sel => exact same
  | bufrd dir ch half off => exact .ite same (.ite same (.read ..))
  | take tmo =>
    refine .ite same (.ite (.answered List.prefix_rfl) (.ite same ?_))
    exact ⟨_, rfl, .inr (.inr (.inl ⟨h, Option.some_ne_none tmo⟩))⟩
  | done => exact .ite same (.answered List.prefix_rfl)
  | crd ch off => exact .ite same (.ite same (.ite (.faulted ..) (.read ..)))
  | cwr ch off dw => exact .ite same (.ite same (.ite (.faulted ..) (.answered List.prefix_rfl)))
  | evt tc => exact .ite (.answered (applyEvent_hist tc s ▸ List.prefix_rfl)) same
  | ewr ch half off dw => exact .ite same (.ite (.faulted ..) (.ite (.faulted ..) (.answered List.prefix_rfl)))
  | erd ch half off => exact .ite same (.ite (.faulted ..) (.ite (.faulted ..) (.read ..)))

/-- A free port with a command at the head of its stream completes it, waits in it or faults. -/
theorem takeCommand_progresses {p : Port} {s : State} (hp : s.pending p = none)
    (hn : (nextCommand (s.port p).stream).isSome = true) : Progresses s (takeCommand p s) := by
  obtain ⟨⟨cw, dw⟩, hn⟩ := Option.isSome_iff_exists.mp hn
  rw [takeCommand_eq_runCommand hp hn]
  cases hd : decode s.cfg p cw (dw.getD 0#32) with
  | ok i =>
    rw [runCommand_of_decode_ok hd]
    exact exec_progresses (port_of_decode hd ▸ hp)
  | error e =>
    rw [runCommand_of_decode_error hd]
    exact .completed List.prefix_rfl

/-- Progress is a matter of the PPBA, not of the agents' own side. -/
theorem SameHardware.progresses {s a : State} {r : Result} (h : SameHardware s a) (hr : Progresses a r) : Progresses s r := by
  obtain ⟨t, ht, hprogress⟩ := hr
  have hpendH : a.pendH = s.pendH := congrArg Control.pendH h.control
  have hpendC : a.pendC = s.pendC := congrArg Control.pendC h.control
  rw [Progress, h.hist, hpendH, hpendC] at hprogress
  exact ⟨t, ht, hprogress⟩

/-- A reference agent's command, issued on an idle port, is the one the port takes. -/
theorem issued_progresses {s a : State} {i : Instr} (h : SameHardware s a) (hempty : (a.port i.port).stream = [])
    (hp : a.pending i.port = none) : Progresses s (takeCommand i.port (issue i a)) := by
  refine (h.trans (sameHardware_issue i a)).progresses (takeCommand_progresses ?_ ?_)
  · rw [issue, setPort_pending, hp]
  · have hnext := nextCommand_encode i []
    rw [List.append_nil] at hnext
    rw [issue, setPort_port_same, hempty, List.nil_append, hnext, Option.isSome_some]

theorem engineMove_progresses {m : EngineMove} {s : State} (h : engineEnabled m s = true) : Progresses s (engineMove m s) := by
  simp only [engineEnabled, Bool.and_eq_true, List.isEmpty_iff] at h
  obtain ⟨⟨hon, hempty⟩, hguard⟩ := h
  unfold engineMove
  rw [if_neg (by simp [hon, hempty])]
  cases m with
  | write ch =>
    exact .guarded hguard
      (issued_progresses (i := .ewr ..) ((sameHardware_setEng ..).trans (sameHardware_spendDraw _)) hempty rfl)
  | read ch => exact .guarded hguard (issued_progresses (i := .erd ..) (sameHardware_setEng ..) hempty rfl)
  | event => exact .guarded hguard (issued_progresses (i := .evt ..) (sameHardware_setEng ..) hempty rfl)

theorem consumerMove_progresses {m : ConsumerMove} {s : State} (h : consumerEnabled m s = true) :
    Progresses s (consumerMove m s) := by
  simp only [consumerEnabled, Bool.and_eq_true, List.isEmpty_iff, Option.isNone_iff_eq_none] at h
  obtain ⟨⟨hempty, hp⟩, hguard⟩ := h
  unfold consumerMove
  rw [if_neg (by simp [hp, hempty])]
  cases m with
  | take => exact .guarded hguard (issued_progresses (i := .take ..) (sameHardware_setCons ..) hempty hp)
  | read ch off => exact .guarded hguard (issued_progresses (i := .crd ..) (sameHardware_setCons ..) hempty hp)
  | write ch off value => exact .guarded hguard (issued_progresses (i := .cwr ..) (sameHardware_setCons ..) hempty hp)
  | release => exact .guarded hguard (issued_progresses (i := .done) (sameHardware_setCons ..) hempty hp)

theorem deliveryStep_progresses {s : State} (h : turnEnabled .deliver s = true) : Progresses s (.next (deliveryStep s)) := by
  obtain ⟨hp, hfull⟩ := Bool.and_eq_true_iff.mp h
  obtain ⟨tmo, hp⟩ := Option.isSome_iff_exists.mp hp
  simp only [deliveryStep, hp, hfull, if_true]
  exact .answered List.prefix_rfl

theorem finishStep_progresses {s : State} (h : turnEnabled .finish s = true) : Progresses s (.next (finishStep s)) := by
  obtain ⟨hp, hdone⟩ := Bool.and_eq_true_iff.mp h
  obtain ⟨tmo, hp⟩ := Option.isSome_iff_exists.mp hp
  simp only [finishStep, hp, hdone, if_true]
  exact .answered List.prefix_rfl

/-- A timeout step is enabled for a finite TMO only. -/
theorem exists_finite_of_enabled {pend : Option (BitVec 24)} {b : Bool} (h : ((pend.map isFinite).getD false && b) = true) :
    ∃ tmo, pend = some tmo ∧ (isFinite tmo && b) = true := by
  cases pend with
  | none => cases h
  | some tmo => exact ⟨tmo, rfl, h⟩

theorem takeTimeoutStep_progresses {s : State} (h : turnEnabled .takeTimeout s = true) :
    Progresses s (.next (takeTimeoutStep s)) := by
  obtain ⟨tmo, hp, hguard⟩ := exists_finite_of_enabled h
  simp only [takeTimeoutStep, hp, hguard, if_true]
  exact .answered List.prefix_rfl

theorem drainTimeoutStep_progresses {s : State} (h : turnEnabled .drainTimeout s = true) :
    Progresses s (.next (drainTimeoutStep s)) := by
  obtain ⟨tmo, hp, hguard⟩ := exists_finite_of_enabled h
  simp only [drainTimeoutStep, hp, hguard, if_true]
  exact .answered List.prefix_rfl

/-- Settles O13, by the kind of the turn. -/
theorem enabledTurnDoesSomething : Obligations.EnabledTurnDoesSomething := by
  intro u s h
  cases u with
  | command p =>
    obtain ⟨hp, hn⟩ := Bool.and_eq_true_iff.mp h
    exact takeCommand_progresses (Option.isNone_iff_eq_none.mp hp) hn
  | deliver => exact deliveryStep_progresses h
  | takeTimeout => exact takeTimeoutStep_progresses h
  | finish => exact finishStep_progresses h
  | drainTimeout => exact drainTimeoutStep_progresses h
  | engine m => exact engineMove_progresses h
  | consumer m => exact consumerMove_progresses h

end Sys2Proof.Machine
end

section
/-! The reference agents stay inside their loops (40_engine.md R108, 42_processor.md R138): each move of an agent keeps its own place
right, and of what the PPBA does only ENG_CFG touches a place. -/

namespace Sys2Proof.Machine

@[simp] theorem applyEvent_eng (tc : Bool) (s : State) : (applyEvent tc s).eng = s.eng := by unfold applyEvent; split <;> rfl
@[simp] theorem applyEvent_cons (tc : Bool) (s : State) : (applyEvent tc s).cons = s.cons := by unfold applyEvent; split <;> rfl
@[simp] theorem deliverBlock_eng (tmo : BitVec 24) (s : State) : (deliverBlock tmo s).eng = s.eng := respond_eng ..
@[simp] theorem deliverBlock_cons (tmo : BitVec 24) (s : State) : (deliverBlock tmo s).cons = s.cons := respond_cons ..
@[simp] theorem finishDrain_eng (tmo : BitVec 24) (s : State) : (finishDrain tmo s).eng = s.eng := respond_eng ..
@[simp] theorem finishDrain_cons (tmo : BitVec 24) (s : State) : (finishDrain tmo s).cons = s.cons := respond_cons ..

@[simp] theorem emit_xportClrFlags_eng (s : State) : (emit .xportClrFlags s).eng = s.eng := rfl
@[simp] theorem emit_xportCfg_eng (rate : BitVec 20) (size : BitVec 6) (s : State) : (emit (.xportCfg rate size) s).eng = s.eng := rfl

/-- The PPBA never moves the consumer, and moves the engine only to the start of half 0, in INIT (40_engine.md R108). -/
theorem RuleStep.places {s t : State} (h : RuleStep s t) : t.cons = s.cons ∧ (t.eng = s.eng ∨ t.eng = RingAgent.start) := by
  cases h with
  | init => exact ⟨by simp, .inr (respond_eng ..)⟩
  | _ => exact ⟨by simp, .inl (by simp)⟩

/-! ### The engine's period -/

/-- The engine's share of `AgentsWithinTheirLoops`. -/
structure RingAgent.WithinPeriod (a : RingAgent) (c : Config) : Prop where
  offset  : a.off ≤ c.ns
  notDone : ¬ (a.wroteLeft = true ∧ a.wroteRight = true ∧ a.readLeft = true ∧ a.readRight = true)

theorem RingAgent.start_withinPeriod (c : Config) : RingAgent.start.WithinPeriod c := ⟨Nat.zero_le _, nofun⟩

/-- After the EVT the next period begins. -/
theorem RingAgent.flip_withinPeriod (a : RingAgent) (c : Config) : a.flip.WithinPeriod c := ⟨Nat.zero_le _, nofun⟩

/-- An access before the end of the period leaves the offset at most at the end. -/
theorem RingAgent.access_withinPeriod {a : RingAgent} {c : Config} (h : a.off < c.ns) (write : Bool) (ch : Channel) :
    (a.mark write ch).settle.WithinPeriod c := by
  refine ⟨?_, settle_open _⟩
  have hoff := settle_off (a.mark write ch)
  rw [mark_off] at hoff
  omega

/-! ### The consumer's loop -/

/-- The consumer's share of `AgentsWithinTheirLoops`. -/
structure LoopAgent.WithinLoop (a : LoopAgent) (c : Config) : Prop where
  notDone : a.seen.length < 2 * c.ns
  reads   : a.phase = .read → a.seen.Nodup ∧ ∀ w ∈ a.seen, w.2.toNat < c.ns
  writes  : a.phase = .write → ∃ first, a.seen.reverse = (List.range a.seen.length).map (writeLoopWord c first)

/-- Every phase may begin. -/
theorem LoopAgent.begin_withinLoop (phase : LoopPhase) (c : Config) : LoopAgent.WithinLoop ⟨phase, []⟩ c :=
  ⟨Nat.mul_pos Nat.two_pos (ns_pos c), fun _ => ⟨List.nodup_nil, nofun⟩, fun _ => ⟨.left, rfl⟩⟩

/-- A word the loop wants to read is new, and inside the block. -/
theorem LoopAgent.WithinLoop.after_read {a : LoopAgent} {c : Config} (h : a.WithinLoop c) (hp : a.phase = .read) {ch : Channel}
    {off : BitVec 16} (hw : a.wantsRead c ch off = true) (next : LoopPhase) : (a.see c ch off next).WithinLoop c := by
  rcases a.see_cases c ch off next with ⟨_, hsee⟩ | ⟨hmore, hsee⟩ <;> rw [hsee]
  · exact begin_withinLoop next c
  obtain ⟨hnodup, hblock⟩ := h.reads hp
  have hnew : (ch, off) ∉ a.seen := by
    simp only [wantsRead, Bool.and_eq_true, Bool.not_eq_true', List.contains_eq_mem, decide_eq_false_iff_not] at hw
    exact hw.2
  have hlen := h.notDone
  refine ⟨by simp only [List.length_cons]; omega, fun _ => ⟨?_, ?_⟩, fun hwrite => ?_⟩
  · exact List.nodup_cons.mpr ⟨hnew, hnodup⟩
  · exact List.forall_mem_cons.mpr ⟨wantsRead_lt hw, hblock⟩
  · cases hp.symm.trans hwrite

theorem eq_otherChannel {ch first : Channel} (h : ch ≠ first) : ch = otherChannel first := by
  cases ch <;> cases first <;> first | rfl | exact absurd rfl h

/-- An offset inside the block survives its 16-bit operand. -/
theorem toNat_ofNat_offset {c : Config} {n : Nat} (h : n < c.ns) : (BitVec.ofNat 16 n).toNat = n := by
  rw [BitVec.toNat_ofNat]
  exact Nat.mod_eq_of_lt (lt_of_lt_of_le h (ns_le c))

/-- The first half of a write loop is the channel that began it. -/
theorem writeLoopWord_of_lt {c : Config} {k : Nat} (h : k < c.ns) (first : Channel) :
    writeLoopWord c first k = (first, BitVec.ofNat 16 k) := if_pos h

/-- The second half of a write loop is the other channel. -/
theorem writeLoopWord_of_ge {c : Config} {k : Nat} (h : c.ns ≤ k) (first : Channel) :
    writeLoopWord c first k = (otherChannel first, BitVec.ofNat 16 (k - c.ns)) := if_neg (by omega)

/-- After a word before its channel's last the loop wants the channel's next word. -/
theorem LoopAgent.wantsWrite_same_channel {a : LoopAgent} {c : Config} {last ch : Channel} {n : Nat} {off : BitVec 16}
    {seen : List (Channel × BitVec 16)} (hs : a.seen = (last, BitVec.ofNat 16 n) :: seen) (hn : n + 1 < c.ns)
    (hw : a.wantsWrite c ch off = true) : (ch, off) = (last, BitVec.ofNat 16 (n + 1)) := by
  simp only [wantsWrite, hs, toNat_ofNat_offset (Nat.lt_of_succ_lt hn), if_pos hn, Bool.and_eq_true, beq_iff_eq] at hw
  obtain ⟨hch, hoff⟩ := hw
  rw [hch, ← hoff, BitVec.ofNat_toNat, BitVec.setWidth_eq]

/-- After a channel's last word the loop wants the other channel's first word. -/
theorem LoopAgent.wantsWrite_other_channel {a : LoopAgent} {c : Config} {last ch : Channel} {n : Nat} {off : BitVec 16}
    {seen : List (Channel × BitVec 16)} (hs : a.seen = (last, BitVec.ofNat 16 n) :: seen) (hn : n + 1 = c.ns)
    (hw : a.wantsWrite c ch off = true) : (ch, off) = (otherChannel last, 0#16) := by
  simp only [wantsWrite, hs, toNat_ofNat_offset (show n < c.ns by omega), if_neg hn.not_lt, Bool.and_eq_true, beq_iff_eq,
    bne_iff_ne] at hw
  obtain ⟨hch, hoff⟩ := hw
  rw [eq_otherChannel hch, hoff]

/-- After the k-th word of a write loop comes the next one, up to the end of the loop. -/
theorem LoopAgent.wantsWrite_after {a : LoopAgent} {c : Config} {first ch : Channel} {k : Nat} {off : BitVec 16}
    {seen : List (Channel × BitVec 16)} (hs : a.seen = writeLoopWord c first k :: seen) (hk : k + 1 < 2 * c.ns)
    (hw : a.wantsWrite c ch off = true) : (ch, off) = writeLoopWord c first (k + 1) := by
  rcases lt_trichotomy (k + 1) c.ns with hin | hend | hout
  · rw [writeLoopWord_of_lt (Nat.lt_of_succ_lt hin)] at hs
    rw [writeLoopWord_of_lt hin]
    exact wantsWrite_same_channel hs hin hw
  · rw [writeLoopWord_of_lt (by omega)] at hs
    rw [writeLoopWord_of_ge hend.ge, hend, Nat.sub_self]
    exact wantsWrite_other_channel hs hend hw
  · rw [writeLoopWord_of_ge (Nat.le_of_lt_succ hout)] at hs
    rw [writeLoopWord_of_ge hout.le, Nat.sub_add_comm (Nat.le_of_lt_succ hout)]
    exact wantsWrite_same_channel hs (by omega) hw

/-- The word the loop wants to write is the next one of its write loop, which the first word chooses. -/
theorem LoopAgent.WithinLoop.next_write {a : LoopAgent} {c : Config} (h : a.WithinLoop c) (hp : a.phase = .write) {ch : Channel}
    {off : BitVec 16} (hw : a.wantsWrite c ch off = true) :
    ∃ first, a.seen.reverse = (List.range a.seen.length).map (writeLoopWord c first) ∧
      (ch, off) = writeLoopWord c first a.seen.length := by
  obtain ⟨first, horder⟩ := h.writes hp
  have hlen := h.notDone
  cases hs : a.seen with
  | nil =>
    have hoff : off = 0#16 := by simpa [wantsWrite, hs] using hw
    exact ⟨ch, rfl, by rw [hoff, List.length_nil, writeLoopWord_of_lt (ns_pos c)]⟩
  | cons last seen =>
    rw [hs] at horder hlen
    have hlast : last = writeLoopWord c first seen.length := by
      simpa [List.range_succ] using congrArg List.getLast? horder
    exact ⟨first, horder, wantsWrite_after (hlast ▸ hs) hlen hw⟩

/-- A word the loop wants to write goes behind those written, in the loop's order. -/
theorem LoopAgent.WithinLoop.after_write {a : LoopAgent} {c : Config} (h : a.WithinLoop c) (hp : a.phase = .write) {ch : Channel}
    {off : BitVec 16} (hw : a.wantsWrite c ch off = true) (next : LoopPhase) : (a.see c ch off next).WithinLoop c := by
  rcases a.see_cases c ch off next with ⟨_, hsee⟩ | ⟨hmore, hsee⟩ <;> rw [hsee]
  · exact begin_withinLoop next c
  obtain ⟨first, horder, hword⟩ := h.next_write hp hw
  have hlen := h.notDone
  refine ⟨by simp only [List.length_cons]; omega, fun hread => ?_, fun _ => ⟨first, ?_⟩⟩
  · cases hp.symm.trans hread
  · rw [List.reverse_cons, List.length_cons, List.range_succ, List.map_append, horder, hword]
    rfl

/-! ### Every step -/

theorem agentsWithinTheirLoops_iff (s : State) :
    AgentsWithinTheirLoops s ↔ s.eng.WithinPeriod s.cfg ∧ s.cons.WithinLoop s.cfg :=
  ⟨fun ⟨hoff, hopen, hlen, hreads, hwrites⟩ => ⟨⟨hoff, hopen⟩, ⟨hlen, hreads, hwrites⟩⟩,
    fun ⟨⟨hoff, hopen⟩, ⟨hlen, hreads, hwrites⟩⟩ => ⟨hoff, hopen, hlen, hreads, hwrites⟩⟩

/-- Whatever the PPBA does, both places stay right. -/
theorem RuleStep.keepsAgentsWithinTheirLoops {s t : State} (h : RuleStep s t) (heng : s.eng.WithinPeriod s.cfg)
    (hcons : s.cons.WithinLoop s.cfg) : AgentsWithinTheirLoops t := by
  obtain ⟨hc, he⟩ := h.places
  rw [agentsWithinTheirLoops_iff, h.cfg, hc]
  refine ⟨?_, hcons⟩
  rcases he with he | he <;> rw [he]
  · exact heng
  · exact RingAgent.start_withinPeriod _

/-- A command that an agent issues as its place goes on keeps both places right when the new one is. -/
theorem issued_keepsAgentsWithinTheirLoops {p : Port} {i : Instr} {s t : State} (h : takeCommand p (issue i s) = .next t)
    (heng : s.eng.WithinPeriod s.cfg) (hcons : s.cons.WithinLoop s.cfg) : AgentsWithinTheirLoops t :=
  (takeCommand_rule h).keepsAgentsWithinTheirLoops (by simpa using heng) (by simpa using hcons)

/-- Settles O57: an agent's move takes its place to another one inside its loop, and the PPBA then moves neither, but for ENG_CFG. -/
theorem stepKeepsAgentsWithinTheirLoops : Obligations.StepKeepsAgentsWithinTheirLoops := by
  intro s t hs h
  rcases step_cases h with ⟨_, rfl⟩ | ⟨u, us, _, hu⟩
  · exact hs
  obtain ⟨heng, hcons⟩ := (agentsWithinTheirLoops_iff s).mp hs
  have keeps (hr : RuleStep (s.setSched us) t) := hr.keepsAgentsWithinTheirLoops heng hcons
  rcases runTurn_cases hu with ⟨p, _, hp⟩ | ⟨_, rfl⟩ | ⟨_, rfl⟩ | ⟨_, rfl⟩ | ⟨_, rfl⟩ | ⟨m, _, hm⟩ | ⟨m, _, hm⟩
  · exact keeps (takeCommand_rule hp)
  · exact keeps (deliveryStep_rule _)
  · exact keeps (takeTimeoutStep_rule _)
  · exact keeps (finishStep_rule _)
  · exact keeps (drainTimeoutStep_rule _)
  · rcases engineMove_cases hm with rfl | ⟨_, _, ⟨ch, dw, hoff, ht⟩ | ⟨ch, hoff, ht⟩ | ht⟩
    · exact keeps (.same _)
    · exact issued_keepsAgentsWithinTheirLoops ht (RingAgent.access_withinPeriod hoff ..) hcons
    · exact issued_keepsAgentsWithinTheirLoops ht (RingAgent.access_withinPeriod hoff ..) hcons
    · exact issued_keepsAgentsWithinTheirLoops ht (RingAgent.flip_withinPeriod ..) hcons
  · rcases consumerMove_cases hm with rfl | ⟨_, _, ⟨_, ht⟩ | ⟨_, _, hp, hw, ht⟩ | ⟨_, _, _, hp, hw, ht⟩ | ⟨_, ht⟩⟩
    · exact keeps (.same _)
    · exact issued_keepsAgentsWithinTheirLoops ht heng (LoopAgent.begin_withinLoop ..)
    · exact issued_keepsAgentsWithinTheirLoops ht heng (hcons.after_read hp hw _)
    · exact issued_keepsAgentsWithinTheirLoops ht heng (hcons.after_write hp hw _)
    · exact issued_keepsAgentsWithinTheirLoops ht heng (LoopAgent.begin_withinLoop ..)

end Sys2Proof.Machine
end

section
/-! The engine family, one equation per case of a command's rule (40_engine.md R102 to R106). -/

namespace Sys2Proof.Machine

/-! ### INIT -/

theorem exec_init_of_first {s : State} (h : s.initd = false) :
    exec .init s = .next (respond .init .ok 0#32
      (emit .engCfg { s with bufIdx := true, slot := Slot.empty, drainDone := false, initd := true })) :=
  if_neg (ne_true_of_eq_false h)

theorem exec_init_of_initd {s : State} (h : s.initd = true) : exec .init s = .next (respond .init .invalidState 0#32 s) :=
  if_pos h

/-- Settles O14: the two cases of INIT, and the decoder's check of the reserved bits. -/
theorem initConfiguresTheRingOnce : Obligations.InitConfiguresTheRingOnce := by
  refine ⟨fun s h => ?_, fun s h => exec_init_of_initd h, reservedBitIllegal .init⟩
  rw [exec_init_of_first h, List.append_cons]
  rfl

/-! ### EVT -/

theorem exec_evt_of_armed {s : State} (h : s.engEn = true) (tc : Bool) :
    exec (.evt tc) s = .next (respond (.evt tc) .ok (evtData true) (applyEvent tc s)) := if_pos h

theorem exec_evt_of_disarmed {s : State} (h : s.engEn = false) (tc : Bool) :
    exec (.evt tc) s = .next (respond (.evt tc) .ok (evtData false) s) := if_neg (ne_true_of_eq_false h)

/-- An applied EVT with no stop armed: the engine goes on. -/
theorem applyEvent_of_running {s : State} (h : s.stopArm = false) (tc : Bool) :
    applyEvent tc s = { s with
      bufIdx := tc
      held := { s.held with ovr := s.held.ovr || s.held.valid }
      slot := ⟨true, tc, false⟩ } := by
  simp [applyEvent, post, h]

/-- An applied EVT with the stop armed halts the engine (40_engine.md R104). -/
theorem applyEvent_of_stopArm {s : State} (h : s.stopArm = true) (tc : Bool) :
    applyEvent tc s = { s with
      bufIdx := tc
      held := { s.held with ovr := s.held.ovr || s.held.valid }
      slot := ⟨true, tc, true⟩
      engEn := false
      state := .draining } := by
  simp [applyEvent, post, h]

/-- The ghost of an overrun, in the form of 40_engine.md R103. -/
theorem ovr_or_valid (h : Held) : (h.ovr || h.valid) = if h.valid then true else h.ovr := by
  cases h.valid <;> simp

/-- Settles O15: the applied EVT without and with the stop armed, and the ignored one. -/
theorem eventCopiesTcPostsAndHalts : Obligations.EventCopiesTcPostsAndHalts := by
  refine ⟨fun s tc hon hrun => ?_, fun s tc hon hstop => ?_, fun s tc hoff => exec_evt_of_disarmed hoff tc,
    reservedBitIllegal .evt⟩
  · rw [exec_evt_of_armed hon, applyEvent_of_running hrun, ovr_or_valid]
    rfl
  · rw [exec_evt_of_armed hon, applyEvent_of_stopArm hstop, ovr_or_valid]
    rfl

/-! ### EWR and ERD -/

theorem offInRange_of_lt {c : Config} {off : BitVec 16} (h : off.toNat < c.ns) : offInRange c off = true := decide_eq_true h

theorem offInRange_of_ge {c : Config} {off : BitVec 16} (h : c.ns ≤ off.toNat) : offInRange c off = false :=
  decide_eq_false h.not_gt

section
variable {s : State} {ch : Channel} {half : Bool} {off : BitVec 16}

theorem exec_ewr_of_out_of_range (dw : Word) (h : s.cfg.ns ≤ off.toNat) :
    exec (.ewr ch half off dw) s = .next (respond (.ewr ch half off dw) .illegal 0#32 s) := by
  simp [exec, execEwr, offInRange_of_ge h]

theorem exec_ewr_of_disarmed (dw : Word) (h : off.toNat < s.cfg.ns) (hoff : s.engEn = false) :
    exec (.ewr ch half off dw) s = .next (raiseFault .mf3 s) := by
  simp [exec, execEwr, offInRange_of_lt h, hoff]

theorem exec_ewr_of_other_half (dw : Word) (h : off.toNat < s.cfg.ns) (hon : s.engEn = true) (hh : half = s.bufIdx) :
    exec (.ewr ch half off dw) s = .next (raiseFault .mf2 s) := by
  simp [exec, execEwr, offInRange_of_lt h, hon, hh]

theorem exec_ewr_of_own_half (dw : Word) (h : off.toNat < s.cfg.ns) (hon : s.engEn = true) (hh : half = !s.bufIdx) :
    exec (.ewr ch half off dw) s = .next (respond (.ewr ch half off dw) .ok 0#32 (bufWrite .input ch half off dw s)) := by
  simp [exec, execEwr, offInRange_of_lt h, hon, hh]

theorem exec_erd_of_out_of_range (h : s.cfg.ns ≤ off.toNat) :
    exec (.erd ch half off) s = .next (respond (.erd ch half off) .illegal 0#32 s) := by
  simp [exec, execErd, offInRange_of_ge h]

theorem exec_erd_of_disarmed (h : off.toNat < s.cfg.ns) (hoff : s.engEn = false) :
    exec (.erd ch half off) s = .next (raiseFault .mf3 s) := by
  simp [exec, execErd, offInRange_of_lt h, hoff]

theorem exec_erd_of_other_half (h : off.toNat < s.cfg.ns) (hon : s.engEn = true) (hh : half = s.bufIdx) :
    exec (.erd ch half off) s = .next (raiseFault .mf2 s) := by
  simp [exec, execErd, offInRange_of_lt h, hon, hh]

theorem exec_erd_of_own_half (h : off.toNat < s.cfg.ns) (hon : s.engEn = true) (hh : half = !s.bufIdx) :
    exec (.erd ch half off) s = .next (respondRead (.erd ch half off) .output ch half off s) := by
  simp [exec, execErd, offInRange_of_lt h, hon, hh]

end

theorem respondRead_of_defined {s : State} {dir : Dir} {ch : Channel} {half : Bool} {off : BitVec 16} {w : Word}
    (h : s.bufWord dir ch half off = some w) (i : Instr) : respondRead i dir ch half off s = respond i .ok w s := by
  simp [respondRead, h]

/-- A read of an UNDEF word answers a draw and logs it as one (20_memory.md R54). -/
theorem respondRead_of_undef {s : State} {dir : Dir} {ch : Channel} {half : Bool} {off : BitVec 16}
    (h : s.bufWord dir ch half off = none) (i : Instr) :
    respondRead i dir ch half off s = complete i.port i.cw i.dw .ok (drawnSample s) true (spendDraw s) := by
  simp [respondRead, h]

/-- Settles O16: the four cases of EWR; what it stores is the sample of its data word. -/
theorem engineWriteStoresOneInputSample : Obligations.EngineWriteStoresOneInputSample :=
  ⟨fun s ch half off dw hr hon hh =>
      ⟨s.buf.set (flatAddress s.cfg .input ch half off) (sampleOf s.cfg dw), sampleOf s.cfg dw,
        exec_ewr_of_own_half dw hr hon hh, sampleOf_toNat s.cfg dw, bufWrite_get .input ch half off dw s⟩,
    fun _ _ _ _ dw hr => exec_ewr_of_out_of_range dw hr,
    fun _ _ _ _ dw hr hoff => exec_ewr_of_disarmed dw hr hoff,
    fun _ _ _ _ dw hr hon hh => exec_ewr_of_other_half dw hr hon hh,
    reservedBitIllegal .ewr⟩

/-- Settles O17: the four cases of ERD, with the word read defined or UNDEF. -/
theorem engineReadAnswersOneOutputSample : Obligations.EngineReadAnswersOneOutputSample := by
  refine ⟨fun s ch half off w hr hon hh hw => ?_, fun s ch half off hr hon hh hw => ⟨drawnSample s, drawnSample_lt s, ?_⟩,
    fun _ _ _ _ hr => exec_erd_of_out_of_range hr,
    fun _ _ _ _ hr hoff => exec_erd_of_disarmed hr hoff,
    fun _ _ _ _ hr hon hh => exec_erd_of_other_half hr hon hh,
    reservedBitIllegal .erd⟩
  · rw [exec_erd_of_own_half hr hon hh, respondRead_of_defined hw]
    rfl
  · rw [exec_erd_of_own_half hr hon hh, respondRead_of_undef hw]
    rfl

end Sys2Proof.Machine
end

section
/-! The engine disarmed (40_engine.md R107 (2)). -/

namespace Sys2Proof.Machine

/-- Of the ways the control state changes, with INITD = 1 and ENG_EN = 0 only START, a delivery and a release touch what an EVT
would, and none of them posts, moves BUFIDX or marks an overrun. -/
theorem ControlStep.frozen_while_disarmed {c d : Control} (h : ControlStep c d) (hi : c.initd = true) (hoff : c.engEn = false) :
    d.bufIdx = c.bufIdx ∧ (d.slot.full = true → d.slot = c.slot) ∧ (d.held.ovr = true → c.held.ovr = true) ∧
    (d.engEn = true → c.state = .idle ∧ d.state = .streaming) := by
  have not_armed {P : Prop} (hon : c.engEn = true) : P := absurd hon (ne_true_of_eq_false hoff)
  cases h with
  | init hfirst => exact absurd hi (ne_true_of_eq_false hfirst)
  | event _ hon | halt _ hon => exact not_armed hon
  | start hidle => exact ⟨rfl, fun _ => rfl, id, fun _ => ⟨hidle, rfl⟩⟩
  | deliver => exact ⟨rfl, nofun, nofun, not_armed⟩
  | same | stop | pendDrain | finish | drainTimeout | reconf | pendTake | takeTimeout | release =>
    exact ⟨rfl, fun _ => rfl, id, not_armed⟩

/-- Settles O41: a step changes the control state in one of the ways listed. -/
theorem indexIsFrozenWhileDisarmed : Obligations.IndexIsFrozenWhileDisarmed := fun _ _ hi hoff h =>
  (step_control h).frozen_while_disarmed hi hoff

end Sys2Proof.Machine
end

section
/-! How a stop drains, command by command: the halting EVT, the delivery of the block it posts, the DONE that signals, the finish
(40_engine.md R104, 41_ready_signal.md R122, 42_processor.md R135, 43_controller.md R156). -/

namespace Sys2Proof.Machine

/-- TAKE delivers when no block is held and SLOT is full. -/
theorem exec_take_of_full {s : State} (hv : s.held.valid = false) (hf : s.slot.full = true) (tmo : BitVec 24) :
    exec (.take tmo) s = .next (deliverBlock tmo s) := by
  simp [exec, execTake, hv, hf]

/-- DONE releases the held block; in Draining it signals the drain when that block is the final one. -/
theorem exec_done_of_held {s : State} (hv : s.held.valid = true) :
    exec .done s = .next (respond .done .ok 0#32
      { s with
        drainDone := s.drainDone || (s.held.final && s.state == .draining)
        held := { s.held with valid := false } }) := by
  simp [exec, execDone, hv]

/-- The finish step of an outstanding WDRAIN with the drain signalled. -/
theorem runTurn_finish_of_drainDone {s : State} {tmo : BitVec 24} (hp : s.pendH = some tmo) (hd : s.drainDone = true) :
    runTurn .finish s = .next (finishDrain tmo s) := by
  simp [runTurn, finishStep, hp, hd]

/-- Settles O55: a coherent StopRequested state has the engine on and the stop armed, so the EVT halts and posts the final block;
each command then finds what the one before it left. -/
theorem drainCompletesThroughTheHandshake : Obligations.DrainCompletesThroughTheHandshake := by
  intro s tc tmoC tmoH hs hstate hfree hpend
  obtain ⟨hon, hstop⟩ := hs.onInStopRequested hstate
  have hevt := exec_evt_of_armed hon tc
  rw [applyEvent_of_stopArm hstop] at hevt
  refine ⟨_, _, _, _, hevt, ?_, ?_, ?_, exec_take_of_full ?_ ?_ tmoC, ?_, exec_done_of_held ?_, ?_,
    runTurn_finish_of_drainDone (tmo := tmoH) ?_ ?_, ?_, ?_, ?_, ?_, ?_, ?_, ?_⟩
  all_goals simp [deliverBlock, finishDrain, hfree, hpend]

end Sys2Proof.Machine
end

section
/-! The reference engine alone on port E (40_engine.md R108): between steps its port is empty and its half is the one the PPBA leaves
to the engine, so its accesses raise neither MF2 nor MF3; the other two ports have no power over any of this. -/

namespace Sys2Proof.Machine

/-! ### A command issued on an idle port -/

theorem issue_stream_of_idle {p : Port} {i : Instr} {s : State} (hi : i.port = p) (hidle : (s.port p).stream = []) :
    ((issue i s).port p).stream = encode i := by
  subst hi
  rw [issue, setPort_port_same, hidle, List.nil_append]

/-- A well-formed command issued on an idle port is the next one the port runs. -/
theorem exec_of_issued {p : Port} {i : Instr} {s t : State} (h : takeCommand p (issue i s) = .next t) (hi : i.port = p)
    (hidle : (s.port p).stream = []) (hp : s.pending p = none) (hwf : i.wf s.cfg = true) : exec i (issue i s) = .next t := by
  have hnext : nextCommand ((issue i s).port p).stream = some (i.cw, i.dw) := by
    rw [issue_stream_of_idle hi hidle, ← List.append_nil (encode i), nextCommand_encode]
  rw [takeCommand_eq_runCommand (by rw [issue, setPort_pending, hp]) hnext] at h
  subst hi
  rwa [runCommand_of_decode_ok (decode_cw (by rwa [issue_cfg]) 0#32)] at h

/-- The completion of the only command of a port leaves the port idle. -/
theorem complete_stream_of_encode {i : Instr} {s : State} (h : (s.port i.port).stream = encode i) (sts : Status) (data : Word)
    (drawn : Bool) : ((complete i.port i.cw i.dw sts data drawn s).port i.port).stream = [] := by
  rw [complete_port_same, h]
  simp [encode]

/-! ### The engine's place -/

/-- Port E is idle, the engine's half is its own once INIT has run, and MF2 and MF3 stand as in `fs`. -/
structure EngineInPlace (fs : Faults) (s : State) : Prop where
  noScript : s.portE.stream = []
  ownHalf  : s.initd = true → s.eng.half = !s.bufIdx
  sameMf2  : s.faults.mf2 = fs.mf2
  sameMf3  : s.faults.mf3 = fs.mf3

/-- Every next state of the result has the engine in its place. -/
def LeavesEngineInPlace (fs : Faults) (r : Result) : Prop := ∀ t, r = .next t → EngineInPlace fs t

theorem LeavesEngineInPlace.next {fs : Faults} {s : State} (h : EngineInPlace fs s) : LeavesEngineInPlace fs (.next s) := by
  intro t ht
  cases ht
  exact h

theorem LeavesEngineInPlace.ite {fs : Faults} {c : Prop} [Decidable c] {a b : Result} (ha : LeavesEngineInPlace fs a)
    (hb : LeavesEngineInPlace fs b) : LeavesEngineInPlace fs (if c then a else b) := by
  split
  · exact ha
  · exact hb

/-! ### The other two ports -/

section
variable {fs : Faults} {s : State} (hs : EngineInPlace fs s)
include hs

/-- A response on another port leaves port E alone. -/
theorem EngineInPlace.complete {p : Port} (hp : p ≠ .engine) (cw : Word) (dw : Option Word) (sts : Status) (data : Word)
    (drawn : Bool) : EngineInPlace fs (complete p cw dw sts data drawn s) where
  noScript := (congrArg PortState.stream (complete_port_other cw dw sts data drawn s hp.symm)).trans hs.noScript
  ownHalf := by simpa using hs.ownHalf
  sameMf2 := by simpa using hs.sameMf2
  sameMf3 := by simpa using hs.sameMf3

theorem EngineInPlace.respond {i : Instr} (hp : i.port ≠ .engine) (sts : Status) (data : Word) :
    EngineInPlace fs (respond i sts data s) := hs.complete hp ..

theorem EngineInPlace.respondRead {i : Instr} (hp : i.port ≠ .engine) (dir : Dir) (ch : Channel) (half : Bool)
    (off : BitVec 16) : EngineInPlace fs (respondRead i dir ch half off s) := by
  unfold Machine.respondRead
  split
  · exact hs.respond hp ..
  · exact EngineInPlace.complete (s := spendDraw s) { hs with } hp ..

theorem EngineInPlace.issue {i : Instr} (hp : i.port ≠ .engine) : EngineInPlace fs (issue i s) where
  noScript := (congrArg PortState.stream (setPort_port_other s _ hp.symm)).trans hs.noScript
  ownHalf := by simpa using hs.ownHalf
  sameMf2 := by simpa using hs.sameMf2
  sameMf3 := by simpa using hs.sameMf3

/-- No command of the host or the consumer posts or raises MF2 or MF3; INIT sends the engine to half 0 as it makes half 1 the PPBA's. -/
theorem EngineInPlace.exec {i : Instr} (hp : i.port ≠ .engine) : LeavesEngineInPlace fs (exec i s) := by
  have answers {sts : Status} {data : Word} : LeavesEngineInPlace fs (.next (Machine.respond i sts data s)) :=
    .next (hs.respond hp ..)
  have acts {a : State} {sts : Status} {data : Word} (ha : EngineInPlace fs a) :
      LeavesEngineInPlace fs (.next (Machine.respond i sts data a)) := .next (ha.respond hp ..)
  have reads {dir : Dir} {ch : Channel} {half : Bool} {off : BitVec 16} :
      LeavesEngineInPlace fs (.next (Machine.respondRead i dir ch half off s)) := .next (hs.respondRead hp ..)
  have overruns : LeavesEngineInPlace fs (.next (raiseFault .mf1 s)) := .next { hs with }
  cases i with
  | init => exact .ite answers (acts { hs with ownHalf := fun _ => rfl })
  | start => exact .ite answers (acts { hs with })
  | stop => exact .ite answers (acts { hs with })
  | wdrain tmo => exact .ite answers (.ite (acts { hs with }) (.ite answers (.next { hs with })))
  | reconf rate size => exact .ite answers (acts { hs with })
  | stat sel => exact answers
  | bufrd dir ch half off => exact .ite answers (.ite answers reads)
  | take tmo => exact .ite answers (.ite (acts { hs with }) (.ite answers (.next { hs with })))
  | done => exact .ite answers (acts { hs with })
  | crd ch off => exact .ite answers (.ite answers (.ite overruns reads))
  | cwr ch off dw => exact .ite answers (.ite answers (.ite overruns (acts { hs with })))
  | evt | ewr | erd => exact absurd rfl hp

/-- Port E has no command to take, and the other ports take none of its commands. -/
theorem EngineInPlace.takeCommand (p : Port) : LeavesEngineInPlace fs (takeCommand p s) := by
  intro t h
  rcases takeCommand_cases h with rfl | ⟨cw, dw, _, hnext, hrun⟩
  · exact hs
  have hp : p ≠ .engine := by
    rintro rfl
    rw [State.port, hs.noScript] at hnext
    cases hnext
  rcases runCommand_cases hrun with ⟨i, hdec, hexec⟩ | ⟨_, rfl⟩
  · exact hs.exec (port_of_decode hdec ▸ hp) t hexec
  · exact hs.complete hp ..

/-- A completion step that is not enabled changes nothing. -/
theorem EngineInPlace.ite {c : Prop} [Decidable c] {a : State} (ha : EngineInPlace fs a) :
    EngineInPlace fs (if c then a else s) := by
  split
  · exact ha
  · exact hs

theorem EngineInPlace.deliveryStep : EngineInPlace fs (deliveryStep s) := by
  unfold Machine.deliveryStep
  split
  · exact hs
  · refine hs.ite (EngineInPlace.respond ?_ (by nofun) ..)
    exact { hs with }

theorem EngineInPlace.takeTimeoutStep : EngineInPlace fs (takeTimeoutStep s) := by
  unfold Machine.takeTimeoutStep
  split
  · exact hs
  · refine hs.ite (EngineInPlace.respond ?_ (by nofun) ..)
    exact { hs with }

theorem EngineInPlace.finishStep : EngineInPlace fs (finishStep s) := by
  unfold Machine.finishStep
  split
  · exact hs
  · refine hs.ite (EngineInPlace.respond ?_ (by nofun) ..)
    exact { hs with }

theorem EngineInPlace.drainTimeoutStep : EngineInPlace fs (drainTimeoutStep s) := by
  unfold Machine.drainTimeoutStep
  split
  · exact hs
  · refine hs.ite (EngineInPlace.respond ?_ (by nofun) ..)
    exact { hs with }

/-- The reference consumer issues commands of port C only. -/
theorem EngineInPlace.consumerMove (m : ConsumerMove) : LeavesEngineInPlace fs (consumerMove m s) := by
  intro t h
  have issued {i : Instr} {a : LoopAgent} (hp : i.port ≠ .engine)
      (ht : Machine.takeCommand .consumer (Machine.issue i (s.setCons a)) = .next t) : EngineInPlace fs t :=
    (EngineInPlace.issue (s := s.setCons a) { hs with } hp).takeCommand .consumer t ht
  rcases consumerMove_cases h with rfl | ⟨_, _, ⟨_, ht⟩ | ⟨_, _, _, _, ht⟩ | ⟨_, _, _, _, _, ht⟩ | ⟨_, ht⟩⟩
  · exact hs
  all_goals exact issued (by nofun) ht

end

/-! ### The engine's own moves -/

/-- Port E holds the words of the engine's command `i` only, and MF2 and MF3 stand as in `fs`. -/
structure EngineIssued (fs : Faults) (i : Instr) (s : State) : Prop where
  onlyCommand : s.portE.stream = encode i
  sameMf2     : s.faults.mf2 = fs.mf2
  sameMf3     : s.faults.mf3 = fs.mf3

/-- A command the engine issues is the one port E runs. -/
theorem exec_of_engine_issued {fs : Faults} {i : Instr} {s t : State} (h : takeCommand .engine (issue i s) = .next t)
    (hi : i.port = .engine) (hwf : i.wf s.cfg = true) (hidle : s.portE.stream = []) (hmf2 : s.faults.mf2 = fs.mf2)
    (hmf3 : s.faults.mf3 = fs.mf3) : EngineIssued fs i (issue i s) ∧ exec i (issue i s) = .next t :=
  ⟨⟨issue_stream_of_idle hi hidle, by simpa using hmf2, by simpa using hmf3⟩, exec_of_issued h hi hidle rfl hwf⟩

/-- The completion of the engine's only command leaves the engine in its place, if its half is its own then. -/
theorem EngineIssued.complete {fs : Faults} {i : Instr} {s : State} (h : EngineIssued fs i s) (hi : i.port = .engine)
    (hown : s.eng.half = !s.bufIdx) (sts : Status) (data : Word) (drawn : Bool) :
    EngineInPlace fs (complete i.port i.cw i.dw sts data drawn s) where
  noScript := by
    have hidle := complete_stream_of_encode (i := i) (s := s) (by rw [hi]; exact h.onlyCommand) sts data drawn
    rw [hi] at hidle ⊢
    exact hidle
  ownHalf := fun _ => by simpa using hown
  sameMf2 := by simpa using h.sameMf2
  sameMf3 := by simpa using h.sameMf3

/-- An EWR inside the block and to the engine's own half is done, and raises no fault. -/
theorem EngineIssued.exec_ewr {fs : Faults} {ch : Channel} {half : Bool} {off : BitVec 16} {dw : Word} {s : State}
    (h : EngineIssued fs (.ewr ch half off dw) s) (hr : off.toNat < s.cfg.ns) (hon : s.engEn = true)
    (hhalf : half = !s.bufIdx) (heng : s.eng.half = half) : LeavesEngineInPlace fs (exec (.ewr ch half off dw) s) := by
  rw [exec_ewr_of_own_half dw hr hon hhalf]
  have hstored : EngineIssued fs (.ewr ch half off dw) (bufWrite .input ch half off dw s) := { h with }
  exact .next (hstored.complete rfl (heng.trans hhalf) ..)

/-- An ERD inside the block and of the engine's own half is answered, and raises no fault. -/
theorem EngineIssued.exec_erd {fs : Faults} {ch : Channel} {half : Bool} {off : BitVec 16} {s : State}
    (h : EngineIssued fs (.erd ch half off) s) (hr : off.toNat < s.cfg.ns) (hon : s.engEn = true)
    (hhalf : half = !s.bufIdx) (heng : s.eng.half = half) : LeavesEngineInPlace fs (exec (.erd ch half off) s) := by
  rw [exec_erd_of_own_half hr hon hhalf]
  cases hw : s.bufWord .output ch half off with
  | some w =>
    rw [respondRead_of_defined hw]
    exact .next (h.complete rfl (heng.trans hhalf) ..)
  | none =>
    rw [respondRead_of_undef hw]
    have hdrawn : EngineIssued fs (.erd ch half off) (spendDraw s) := { h with }
    exact .next (hdrawn.complete rfl (heng.trans hhalf) ..)

/-- The EVT of the half the engine has left is applied, and gives the PPBA that half. -/
theorem EngineIssued.exec_evt {fs : Faults} {tc : Bool} {s : State} (h : EngineIssued fs (.evt tc) s) (hon : s.engEn = true)
    (hflip : s.eng.half = !tc) : LeavesEngineInPlace fs (exec (.evt tc) s) := by
  rw [exec_evt_of_armed hon]
  have happlied : EngineIssued fs (.evt tc) (applyEvent tc s) :=
    { onlyCommand := (congrArg PortState.stream (applyEvent_port tc s .engine)).trans h.onlyCommand
      sameMf2 := by simpa using h.sameMf2
      sameMf3 := by simpa using h.sameMf3 }
  exact .next (happlied.complete rfl (by simpa using hflip) ..)

/-- The engine on, each move finds what it needs: an offset inside the block and its own half; after the EVT of a period its half is
the other one. -/
theorem EngineInPlace.engineMove {fs : Faults} {s : State} (hs : EngineInPlace fs s) (hini : s.engEn = true → s.initd = true)
    (m : EngineMove) : LeavesEngineInPlace fs (engineMove m s) := by
  intro t h
  rcases engineMove_cases h with rfl | ⟨hon, hidle, hmove⟩
  · exact hs
  have hown := hs.ownHalf (hini hon)
  have inRange (hoff : s.eng.off < s.cfg.ns) : (BitVec.ofNat 16 s.eng.off).toNat < s.cfg.ns := by rwa [engine_off_toNat hoff]
  rcases hmove with ⟨ch, dw, hoff, ht⟩ | ⟨ch, hoff, ht⟩ | ht
  · obtain ⟨hissued, hexec⟩ := exec_of_engine_issued ht rfl (decide_eq_true (inRange hoff)) hidle hs.sameMf2 hs.sameMf3
    exact hissued.exec_ewr (by simpa using inRange hoff) (by simpa using hon) (by simpa using hown) (by simp) t hexec
  · obtain ⟨hissued, hexec⟩ := exec_of_engine_issued ht rfl (decide_eq_true (inRange hoff)) hidle hs.sameMf2 hs.sameMf3
    exact hissued.exec_erd (by simpa using inRange hoff) (by simpa using hon) (by simpa using hown) (by simp) t hexec
  · obtain ⟨hissued, hexec⟩ := exec_of_engine_issued ht rfl rfl hidle hs.sameMf2 hs.sameMf3
    exact hissued.exec_evt (by simpa using hon) (by simp [RingAgent.flip]) t hexec

/-! ### Every step -/

theorem EngineInPlace.runTurn {fs : Faults} {s : State} (hs : EngineInPlace fs s) (hini : s.engEn = true → s.initd = true)
    (u : Turn) : LeavesEngineInPlace fs (runTurn u s) := by
  cases u with
  | command p => exact hs.takeCommand p
  | deliver => exact .next hs.deliveryStep
  | takeTimeout => exact .next hs.takeTimeoutStep
  | finish => exact .next hs.finishStep
  | drainTimeout => exact .next hs.drainTimeoutStep
  | engine m => exact hs.engineMove hini m
  | consumer m => exact hs.consumerMove m

/-- The engine is on only after INIT. -/
theorem Coherent.initd_of_engEn {s : State} (hs : Coherent s) (hon : s.engEn = true) : s.initd = true := by
  by_contra hnot
  obtain ⟨_, hoff, _⟩ := hs.beforeInit (Bool.eq_false_of_not_eq_true hnot)
  exact ne_true_of_eq_false hoff hon

/-- Settles O52: the engine's place, with MF2 and MF3 as they stand, is kept by every kind of turn. -/
theorem referenceEngineKeepsToItsHalf : Obligations.ReferenceEngineKeepsToItsHalf := by
  intro s t hs h
  have hplace : EngineInPlace s.faults s := ⟨hs.noScript, hs.ownHalf, rfl, rfl⟩
  have hkept : EngineInPlace s.faults t := by
    rcases step_cases h with ⟨_, rfl⟩ | ⟨u, us, _, hu⟩
    · exact hplace
    · exact EngineInPlace.runTurn (s := s.setSched us) { hplace with } hs.coherent.initd_of_engEn u t hu
  exact ⟨⟨stepKeepsCoherence s t hs.coherent h, hkept.noScript, hkept.ownHalf⟩, hkept.sameMf2, hkept.sameMf3⟩

end Sys2Proof.Machine
end

section
/-! The ready-signal family, one equation per case of TAKE's rule and of its two completion steps (41_ready_signal.md R122 to R125). -/

namespace Sys2Proof.Machine

/-- A delivery written out: HELD from SLOT, SLOT emptied, and the record with DATA = FINAL ++ IDX. -/
theorem deliverBlock_eq (tmo : BitVec 24) (s : State) :
    deliverBlock tmo s = { s with
      held := ⟨true, s.slot.idx, s.slot.final, false⟩
      slot := ⟨false, s.slot.idx, s.slot.final⟩
      pendC := none
      hist := s.hist ++ [.command ⟨.consumer, (Instr.take tmo).cw, none, .ok,
        bit32 s.slot.final <<< 1 ||| bit32 s.slot.idx, false⟩]
      portC := ⟨s.portC.pos + 1, s.portC.stream.drop 1⟩ } := by
  rw [deliverBlock, takeData_eq]
  rfl

/-! ### The issuing step -/

theorem exec_take_of_held {s : State} (hv : s.held.valid = true) (tmo : BitVec 24) :
    exec (.take tmo) s = .next (respond (.take tmo) .invalidState 0#32 s) := if_pos hv

theorem exec_take_of_poll {s : State} (hv : s.held.valid = false) (hf : s.slot.full = false) :
    exec (.take 0#24) s = .next (respond (.take 0#24) .timeout 0#32 s) := by
  simp [exec, execTake, hv, hf, isPoll]

theorem exec_take_of_wait {s : State} {tmo : BitVec 24} (hv : s.held.valid = false) (hf : s.slot.full = false)
    (ht : tmo ≠ 0#24) : exec (.take tmo) s = .next { s with pendC := some tmo } := by
  simp [exec, execTake, hv, hf, isPoll, ht]

/-- Settles O18: the four cases of TAKE, and the decoder's check of the reserved bits. -/
theorem takeDeliversPollsOrPends : Obligations.TakeDeliversPollsOrPends := by
  refine ⟨fun s tmo hv => exec_take_of_held hv tmo, fun s tmo hv hf => ?_, fun s hv hf => exec_take_of_poll hv hf,
    fun s tmo hv hf ht => exec_take_of_wait hv hf ht, reservedBitIllegal .take⟩
  rw [exec_take_of_full hv hf, deliverBlock_eq]
  rfl

/-! ### The completion steps -/

/-- A TMO is finite when it is neither 0 nor 0xFFFFFF (30_encoding.md R77). -/
theorem isFinite_of_bounds {tmo : BitVec 24} (hpos : 0 < tmo.toNat) (hlt : tmo.toNat < 0xFFFFFF) : isFinite tmo = true := by
  have hpoll : tmo ≠ 0#24 := by
    rintro rfl
    cases hpos
  have hindefinite : tmo ≠ 0xFFFFFF#24 := by
    rintro rfl
    exact absurd hlt (lt_irrefl _)
  simp [isFinite, isPoll, isIndefinite, hpoll, hindefinite]

theorem runTurn_deliver_of_full {s : State} {tmo : BitVec 24} (hp : s.pendC = some tmo) (hf : s.slot.full = true) :
    runTurn .deliver s = .next (deliverBlock tmo s) := by
  simp [runTurn, deliveryStep, hp, hf]

theorem runTurn_takeTimeout_of_empty {s : State} {tmo : BitVec 24} (hp : s.pendC = some tmo) (hfin : isFinite tmo = true)
    (hf : s.slot.full = false) :
    runTurn .takeTimeout s = .next (respond (.take tmo) .timeout 0#32 { s with pendC := none }) := by
  simp [runTurn, takeTimeoutStep, hp, hfin, hf]

theorem deliver_not_enabled {s : State} (h : s.pendC = none ∨ s.slot.full = false) : turnEnabled .deliver s = false := by
  rcases h with hnone | hempty
  · simp [turnEnabled, hnone]
  · simp [turnEnabled, hempty]

theorem takeTimeout_not_enabled {s : State} (h : s.slot.full = true ∨ s.pendC = some 0xFFFFFF#24 ∨ s.pendC = none) :
    turnEnabled .takeTimeout s = false := by
  rcases h with hfull | hindefinite | hnone
  · simp [turnEnabled, hfull]
  · simp [turnEnabled, hindefinite, isFinite, isIndefinite]
  · simp [turnEnabled, hnone]

/-- Settles O19: the two steps where they are enabled; where they are not, the turn changes nothing by O12. -/
theorem outstandingTakeDeliversOrTimesOut : Obligations.OutstandingTakeDeliversOrTimesOut := by
  refine ⟨fun s tmo hp hf => ?_, fun s h => disabledTurnChangesNothing _ s (deliver_not_enabled h),
    fun s tmo hp hpos hlt hf => runTurn_takeTimeout_of_empty hp (isFinite_of_bounds hpos hlt) hf,
    fun s h => disabledTurnChangesNothing _ s (takeTimeout_not_enabled h)⟩
  rw [runTurn_deliver_of_full hp hf, deliverBlock_eq]
  rfl

/-! ### What a delivery hands over -/

theorem SameHardware.slot {s a : State} (h : SameHardware s a) : a.slot = s.slot := congrArg Control.slot h.control

theorem applyEvent_held_valid (tc : Bool) (s : State) : (applyEvent tc s).held.valid = s.held.valid := by
  unfold applyEvent; split <;> rfl

theorem finishDrain_held (tmo : BitVec 24) (s : State) : (finishDrain tmo s).held = s.held := respond_held ..

/-- Of the ways to act only the delivery gives the consumer a block, and it takes the block out of a full SLOT. -/
theorem RuleStep.held_gained {s t : State} (h : RuleStep s t) (hv : s.held.valid = false) (ht : t.held.valid = true) :
    s.slot.full = true ∧ ∃ tmo, t = deliverBlock tmo s := by
  cases h with
  | deliver tmo hf => exact ⟨hf, tmo, rfl⟩
  | release hheld => exact absurd hheld (ne_true_of_eq_false hv)
  | _ => exact absurd ht (by simp [applyEvent_held_valid, finishDrain_held, hv])

/-- Settles O42: the step is a delivery, and in a coherent state a full SLOT holds the latest index. -/
theorem takeDeliversTheLatestPost : Obligations.TakeDeliversTheLatestPost := by
  intro s t hs h hv ht
  obtain ⟨a, ha, hr⟩ := step_rule h
  rw [← ha.held] at hv
  obtain ⟨hfull, tmo, rfl⟩ := hr.held_gained hv ht
  rw [ha.slot] at hfull
  rw [deliverBlock_eq, ha.slot, ← hs.slotIsLatest hfull]
  exact ⟨hfull, rfl, rfl, rfl, tmo, List.getLast?_concat⟩

end Sys2Proof.Machine
end

section
/-! The posts of the reference engine (41_ready_signal.md R127): its EVT is applied and posts the half it has just left, its accesses
leave BUFIDX and SLOT alone. -/

namespace Sys2Proof.Machine

theorem applyEvent_slot (tc : Bool) (s : State) : (applyEvent tc s).slot = ⟨true, tc, s.stopArm⟩ := by
  unfold applyEvent post; split <;> rfl

/-- An enabled engine has port E to itself. -/
theorem engEn_and_idle_of_enabled {m : EngineMove} {s : State} (h : engineEnabled m s = true) :
    s.engEn = true ∧ s.portE.stream = [] := by
  simp only [engineEnabled, Bool.and_eq_true, List.isEmpty_iff] at h
  exact h.1

theorem engineMove_write_of_enabled {ch : Channel} {s : State} (h : engineEnabled (.write ch) s = true) :
    engineMove (.write ch) s = takeCommand .engine
      (issue (.ewr ch s.eng.half (BitVec.ofNat 16 s.eng.off) (drawnSample s))
        (spendDraw (s.setEng (s.eng.mark true ch).settle))) := by
  obtain ⟨hon, hidle⟩ := engEn_and_idle_of_enabled h
  rw [engineMove, if_neg (by simp [hon, hidle])]
  exact if_pos (Bool.and_eq_true_iff.mp h).2

theorem engineMove_read_of_enabled {ch : Channel} {s : State} (h : engineEnabled (.read ch) s = true) :
    engineMove (.read ch) s = takeCommand .engine
      (issue (.erd ch s.eng.half (BitVec.ofNat 16 s.eng.off)) (s.setEng (s.eng.mark false ch).settle)) := by
  obtain ⟨hon, hidle⟩ := engEn_and_idle_of_enabled h
  rw [engineMove, if_neg (by simp [hon, hidle])]
  exact if_pos (Bool.and_eq_true_iff.mp h).2

theorem engineMove_event_of_enabled {s : State} (h : engineEnabled .event s = true) :
    engineMove .event s = takeCommand .engine (issue (.evt s.eng.half) (s.setEng s.eng.flip)) := by
  obtain ⟨hon, hidle⟩ := engEn_and_idle_of_enabled h
  rw [engineMove, if_neg (by simp [hon, hidle])]
  exact if_pos (Bool.and_eq_true_iff.mp h).2

/-- Of the engine's commands only EVT changes the control state. -/
theorem exec_access_control {i : Instr} {s t : State} (hi : i.port = .engine) (hne : ∀ tc, i ≠ .evt tc)
    (h : exec i s = .next t) : t.control = s.control := by
  cases i with
  | ewr ch half off dw =>
    simp only [exec, execEwr] at h
    split_ifs at h <;> cases h <;> simp
  | erd ch half off =>
    simp only [exec, execErd] at h
    split_ifs at h <;> cases h <;> simp
  | evt tc => exact absurd rfl (hne tc)
  | _ => cases hi

/-- An access that the engine issues on its idle port changes no control element. -/
theorem issued_access_control {i : Instr} {s a t : State} (h : takeCommand .engine (issue i a) = .next t)
    (ha : SameHardware s a) (hi : i.port = .engine) (hne : ∀ tc, i ≠ .evt tc) (hidle : a.portE.stream = [])
    (hwf : i.wf a.cfg = true) : t.control = s.control :=
  (exec_access_control hi hne (exec_of_issued h hi hidle rfl hwf)).trans ((issue_control i a).trans ha.control)

theorem engineMove_access_control {m : EngineMove} {s t : State} (hm : m ≠ .event) (he : engineEnabled m s = true)
    (h : engineMove m s = .next t) : t.control = s.control := by
  obtain ⟨_, hidle⟩ := engEn_and_idle_of_enabled he
  have inRange {guard : Bool} (hg : (decide (s.eng.off < s.cfg.ns) && guard) = true) :
      decide ((BitVec.ofNat 16 s.eng.off).toNat < s.cfg.ns) = true := by
    have hoff := of_decide_eq_true (Bool.and_eq_true_iff.mp hg).1
    rwa [engine_off_toNat hoff, decide_eq_true_iff]
  cases m with
  | write ch =>
    rw [engineMove_write_of_enabled he] at h
    exact issued_access_control h ((sameHardware_setEng ..).trans (sameHardware_spendDraw _)) rfl nofun hidle
      (inRange (Bool.and_eq_true_iff.mp he).2)
  | read ch =>
    rw [engineMove_read_of_enabled he] at h
    exact issued_access_control h (sameHardware_setEng ..) rfl nofun hidle (inRange (Bool.and_eq_true_iff.mp he).2)
  | event => exact absurd rfl hm

/-- The engine's EVT is applied and carries the half it has just transferred. -/
theorem engineEvent_applies {s t : State} (he : engineEnabled .event s = true) (h : engineMove .event s = .next t) :
    t = respond (.evt s.eng.half) .ok 1#32 (applyEvent s.eng.half (issue (.evt s.eng.half) (s.setEng s.eng.flip))) := by
  obtain ⟨hon, hidle⟩ := engEn_and_idle_of_enabled he
  have hexec := exec_of_issued ((engineMove_event_of_enabled he).symm.trans h) rfl hidle rfl rfl
  rw [exec_evt_of_armed (by simpa using hon)] at hexec
  exact (Host.Outcome.next.inj hexec).symm

/-- Settles O53: the EVT carries the half the engine has just left, which is the one BUFIDX does not name; an access leaves the
control state as it is. -/
theorem referenceEnginePostsAlternate : Obligations.ReferenceEnginePostsAlternate := by
  intro s t m hs hi he h
  refine ⟨?_, fun hm => ?_⟩
  · rintro rfl
    rw [engineEvent_applies he h, hs.ownHalf hi]
    refine ⟨by simp, by simp [applyEvent_slot], ?_⟩
    rw [respond_hist, applyEvent_hist, issue_hist]
    rfl
  · have hcontrol := engineMove_access_control hm he h
    exact ⟨congrArg Control.bufIdx hcontrol, congrArg Control.slot hcontrol⟩

end Sys2Proof.Machine
end

section
/-! The processor family, one equation per case of a command's rule (42_processor.md R135 to R137). -/

namespace Sys2Proof.Machine

/-! ### DONE -/

theorem exec_done_of_none {s : State} (hv : s.held.valid = false) : exec .done s = .next (respond .done .invalidState 0#32 s) := by
  simp [exec, execDone, hv]

/-- The drain signal of DONE, in the form of 42_processor.md R135. -/
theorem drainSignal_eq (s : State) :
    (s.drainDone || (s.held.final && s.state == .draining)) =
      if s.held.final = true ∧ s.state = .draining then true else s.drainDone := by
  by_cases hfinal : s.held.final = true ∧ s.state = .draining
  · simp [hfinal]
  · have hno : (s.held.final && s.state == .draining) = false := by simpa using hfinal
    rw [hno, Bool.or_false, if_neg hfinal]

/-- Settles O20: the release of a held block, the refusal with none held, and the decoder's check of the reserved bits. -/
theorem doneReleasesAndSignalsTheFinalBlock : Obligations.DoneReleasesAndSignalsTheFinalBlock := by
  refine ⟨fun s hv => ?_, fun s hv => exec_done_of_none hv, reservedBitIllegal .done⟩
  rw [exec_done_of_held hv, drainSignal_eq]
  rfl

/-! ### CRD and CWR -/

section
variable {s : State} {ch : Channel} {off : BitVec 16}

theorem exec_crd_of_out_of_range (h : s.cfg.ns ≤ off.toNat) :
    exec (.crd ch off) s = .next (respond (.crd ch off) .illegal 0#32 s) := by
  simp [exec, execCrd, offInRange_of_ge h]

theorem exec_crd_of_none (h : off.toNat < s.cfg.ns) (hv : s.held.valid = false) :
    exec (.crd ch off) s = .next (respond (.crd ch off) .invalidState 0#32 s) := by
  simp [exec, execCrd, offInRange_of_lt h, hv]

theorem exec_crd_of_overrun (h : off.toNat < s.cfg.ns) (hv : s.held.valid = true) (ho : s.held.ovr = true) :
    exec (.crd ch off) s = .next (raiseFault .mf1 s) := by
  simp [exec, execCrd, offInRange_of_lt h, hv, ho]

theorem exec_crd_of_held (h : off.toNat < s.cfg.ns) (hv : s.held.valid = true) (ho : s.held.ovr = false) :
    exec (.crd ch off) s = .next (respondRead (.crd ch off) .input ch s.held.idx off s) := by
  simp [exec, execCrd, offInRange_of_lt h, hv, ho]

theorem exec_cwr_of_out_of_range (dw : Word) (h : s.cfg.ns ≤ off.toNat) :
    exec (.cwr ch off dw) s = .next (respond (.cwr ch off dw) .illegal 0#32 s) := by
  simp [exec, execCwr, offInRange_of_ge h]

theorem exec_cwr_of_none (dw : Word) (h : off.toNat < s.cfg.ns) (hv : s.held.valid = false) :
    exec (.cwr ch off dw) s = .next (respond (.cwr ch off dw) .invalidState 0#32 s) := by
  simp [exec, execCwr, offInRange_of_lt h, hv]

theorem exec_cwr_of_overrun (dw : Word) (h : off.toNat < s.cfg.ns) (hv : s.held.valid = true) (ho : s.held.ovr = true) :
    exec (.cwr ch off dw) s = .next (raiseFault .mf1 s) := by
  simp [exec, execCwr, offInRange_of_lt h, hv, ho]

theorem exec_cwr_of_held (dw : Word) (h : off.toNat < s.cfg.ns) (hv : s.held.valid = true) (ho : s.held.ovr = false) :
    exec (.cwr ch off dw) s = .next (respond (.cwr ch off dw) .ok 0#32 (bufWrite .output ch s.held.idx off dw s)) := by
  simp [exec, execCwr, offInRange_of_lt h, hv, ho]

end

/-- Settles O21: the four cases of CRD, with the word read defined or UNDEF. -/
theorem consumerReadAnswersTheHeldInputBlock : Obligations.ConsumerReadAnswersTheHeldInputBlock := by
  refine ⟨fun s ch off w hr hv ho hw => ?_, fun s ch off hr hv ho hw => ⟨drawnSample s, drawnSample_lt s, ?_⟩,
    fun _ _ _ hr => exec_crd_of_out_of_range hr,
    fun _ _ _ hr hv => exec_crd_of_none hr hv,
    fun _ _ _ hr hv ho => exec_crd_of_overrun hr hv ho,
    reservedBitIllegal .crd⟩
  · rw [exec_crd_of_held hr hv ho, respondRead_of_defined hw]
    rfl
  · rw [exec_crd_of_held hr hv ho, respondRead_of_undef hw]
    rfl

/-- Settles O22: the four cases of CWR; what it stores is the sample of its data word. -/
theorem consumerWriteStoresToTheHeldOutputBlock : Obligations.ConsumerWriteStoresToTheHeldOutputBlock :=
  ⟨fun s ch off dw hr hv ho =>
      ⟨s.buf.set (flatAddress s.cfg .output ch s.held.idx off) (sampleOf s.cfg dw), sampleOf s.cfg dw,
        exec_cwr_of_held dw hr hv ho, sampleOf_toNat s.cfg dw, bufWrite_get .output ch s.held.idx off dw s⟩,
    fun _ _ _ dw hr => exec_cwr_of_out_of_range dw hr,
    fun _ _ _ dw hr hv => exec_cwr_of_none dw hr hv,
    fun _ _ _ dw hr hv ho => exec_cwr_of_overrun dw hr hv ho,
    reservedBitIllegal .cwr⟩

end Sys2Proof.Machine
end

section
/-! The reference consumer alone on port C (42_processor.md R138): between steps it is in its loop, in its TAKE or halted by MF1. The
other two ports leave port C and its outstanding TAKE alone; the consumer's own commands find what its place says. -/

namespace Sys2Proof.Machine

/-! ### The consumer's place -/

/-- Port C is idle, and the consumer holds a block exactly outside the phase before TAKE. -/
def ConsumerInLoop (s : State) : Prop :=
  s.pendC = none ∧ s.portC.stream = [] ∧ (s.cons.phase = .take ↔ s.held.valid = false)

/-- The consumer waits in its TAKE INF. -/
def ConsumerInTake (s : State) : Prop :=
  s.pendC = some 0xFFFFFF#24 ∧ s.portC.stream = encode (.take 0xFFFFFF#24) ∧ s.cons.phase = .read

/-- The command accesses a word inside the block. -/
def AccessesBlock (c : Config) (i : Instr) : Prop :=
  ∃ ch off, off.toNat < c.ns ∧ (i = .crd ch off ∨ ∃ dw, i = .cwr ch off dw)

/-- The consumer stands at an access to a block that was overrun. -/
def ConsumerHalted (s : State) : Prop :=
  s.pendC = none ∧ s.held.valid = true ∧ s.held.ovr = true ∧ ∃ i, AccessesBlock s.cfg i ∧ s.portC.stream = encode i

/-- The three places of `ReferenceConsumerOnly`. -/
def ConsumerInPlace (s : State) : Prop := ConsumerInLoop s ∨ ConsumerInTake s ∨ ConsumerHalted s

theorem exists_access_iff (c : Config) (words : List Word) :
    (∃ i, AccessesBlock c i ∧ words = encode i) ↔
      ∃ ch off, off.toNat < c.ns ∧ (words = encode (.crd ch off) ∨ ∃ dw, words = encode (.cwr ch off dw)) := by
  constructor
  · rintro ⟨_, ⟨ch, off, hr, rfl | ⟨dw, rfl⟩⟩, hwords⟩
    · exact ⟨ch, off, hr, .inl hwords⟩
    · exact ⟨ch, off, hr, .inr ⟨dw, hwords⟩⟩
  · rintro ⟨ch, off, hr, hwords | ⟨dw, hwords⟩⟩
    · exact ⟨_, ⟨ch, off, hr, .inl rfl⟩, hwords⟩
    · exact ⟨_, ⟨ch, off, hr, .inr ⟨dw, rfl⟩⟩, hwords⟩

theorem referenceConsumerOnly_iff (s : State) : ReferenceConsumerOnly s ↔ Coherent s ∧ ConsumerInPlace s := by
  unfold ConsumerInPlace ConsumerHalted
  rw [exists_access_iff]
  exact ⟨fun ⟨hcoherent, hplace⟩ => ⟨hcoherent, hplace⟩, fun ⟨hcoherent, hplace⟩ => ⟨hcoherent, hplace⟩⟩

/-- Every record of port C that HIST gains from `s` to `t` answers OK. -/
def AnswersOk (s t : State) : Prop :=
  ∀ l, t.hist = s.hist ++ l → ∀ r, HistEntry.command r ∈ l → r.port = .consumer → r.sts = .ok

theorem AnswersOk.of_append {s t : State} {l : List HistEntry} (h : t.hist = s.hist ++ l)
    (hl : ∀ r, HistEntry.command r ∈ l → r.port = .consumer → r.sts = .ok) : AnswersOk s t := by
  intro l' h'
  rwa [List.append_cancel_left (h'.symm.trans h)]

theorem AnswersOk.of_hist_eq {s t : State} (h : t.hist = s.hist) : AnswersOk s t :=
  .of_append (l := []) (h.trans (List.append_nil _).symm) nofun

/-- The step from `s` to `t` leaves the consumer in its place, and refuses none of its commands. -/
def KeepsHandshake (s t : State) : Prop := ConsumerInPlace t ∧ AnswersOk s t

/-! ### The other two ports -/

/-- Port C and its outstanding TAKE are as before. -/
def ConsumerPortKept (s t : State) : Prop := t.portC = s.portC ∧ t.pendC = s.pendC

theorem complete_keepsConsumerPort {p : Port} (hp : p ≠ .consumer) (cw : Word) (dw : Option Word) (sts : Status) (data : Word)
    (drawn : Bool) (s : State) : ConsumerPortKept s (complete p cw dw sts data drawn s) :=
  ⟨complete_port_other cw dw sts data drawn s hp.symm, complete_pendC ..⟩

theorem respondRead_keepsConsumerPort {i : Instr} (hi : i.port ≠ .consumer) (dir : Dir) (ch : Channel) (half : Bool)
    (off : BitVec 16) (s : State) : ConsumerPortKept s (respondRead i dir ch half off s) := by
  unfold respondRead
  split
  · exact complete_keepsConsumerPort hi ..
  · exact complete_keepsConsumerPort hi (s := spendDraw s) ..

/-- A command of the host or the engine answers on its own port. -/
theorem exec_keepsConsumerPort {i : Instr} {s t : State} (hi : i.port ≠ .consumer) (h : exec i s = .next t) :
    ConsumerPortKept s t := by
  cases i with
  | take | done | crd | cwr => exact absurd rfl hi
  | bufrd dir ch half off =>
    simp only [exec, execBufrd] at h
    split_ifs at h <;> cases h
    · exact ⟨rfl, rfl⟩
    · exact ⟨rfl, rfl⟩
    · exact respondRead_keepsConsumerPort hi ..
  | erd ch half off =>
    simp only [exec, execErd] at h
    split_ifs at h <;> cases h
    · exact ⟨rfl, rfl⟩
    · exact ⟨rfl, rfl⟩
    · exact ⟨rfl, rfl⟩
    · exact respondRead_keepsConsumerPort hi ..
  | evt tc =>
    simp only [exec, execEvt, applyEvent] at h
    split_ifs at h <;> cases h <;> exact ⟨rfl, rfl⟩
  | _ =>
    simp only [exec, execInit, execStart, execStop, execWdrain, execReconf, execStat, execEwr] at h
    split_ifs at h <;> cases h <;> exact ⟨rfl, rfl⟩

theorem takeCommand_keepsConsumerPort {p : Port} {s t : State} (hp : p ≠ .consumer) (h : takeCommand p s = .next t) :
    ConsumerPortKept s t := by
  rcases takeCommand_cases h with rfl | ⟨cw, dw, _, _, hrun⟩
  · exact ⟨rfl, rfl⟩
  rcases runCommand_cases hrun with ⟨i, hdec, hexec⟩ | ⟨_, rfl⟩
  · exact exec_keepsConsumerPort (port_of_decode hdec ▸ hp) hexec
  · exact complete_keepsConsumerPort hp ..

theorem finishStep_keepsConsumerPort (s : State) : ConsumerPortKept s (finishStep s) := by
  unfold finishStep
  split
  · exact ⟨rfl, rfl⟩
  · split <;> exact ⟨rfl, rfl⟩

theorem drainTimeoutStep_keepsConsumerPort (s : State) : ConsumerPortKept s (drainTimeoutStep s) := by
  unfold drainTimeoutStep
  split
  · exact ⟨rfl, rfl⟩
  · split <;> exact ⟨rfl, rfl⟩

section
variable {s t : State} (h : RuleStep s t) (hkept : ConsumerPortKept s t)
include h hkept

/-- Only an answer on port C gives or takes a block; a completion event may mark the block held as overrun, never as current. -/
theorem RuleStep.held_of_consumerPortKept : t.held.valid = s.held.valid ∧ (s.held.ovr = true → t.held.ovr = true) := by
  obtain ⟨hport, _⟩ := hkept
  cases h with
  | deliver | release => exact absurd (congrArg PortState.pos hport) (Nat.succ_ne_self _)
  | event tc =>
    rw [respond_held]
    refine ⟨applyEvent_held_valid tc s, fun hovr => ?_⟩
    unfold applyEvent
    split <;> simp [post, hovr]
  | _ => simp [finishDrain_held]

/-- The port that gains a record moves its position on, so a step that keeps port C's completes no command of it. -/
theorem RuleStep.answersOk_of_consumerPortKept : AnswersOk s t := by
  rcases h.completes with ⟨hhist, _⟩ | ⟨events, r, hhist, hpos⟩
  · exact .of_hist_eq hhist
  have hother : r.port ≠ .consumer := by
    intro hr
    have hmoved := hpos .consumer
    rw [State.port, State.port, hkept.1, if_pos hr.symm] at hmoved
    exact Nat.succ_ne_self _ hmoved.symm
  refine .of_append (hhist.trans (List.append_assoc ..)) fun r' hmem hr' => ?_
  obtain rfl : r' = r := by simpa using hmem
  exact absurd hr' hother

theorem ConsumerInPlace.keepsHandshake_of_consumerPortKept (hs : ConsumerInPlace s) : KeepsHandshake s t := by
  refine ⟨?_, h.answersOk_of_consumerPortKept hkept⟩
  obtain ⟨hvalid, hovr⟩ := h.held_of_consumerPortKept hkept
  obtain ⟨hport, hpend⟩ := hkept
  obtain ⟨hcons, _⟩ := h.places
  unfold ConsumerInPlace ConsumerInLoop ConsumerInTake ConsumerHalted
  rw [hport, hpend, hcons, hvalid, h.cfg]
  exact hs.imp_right (Or.imp_right fun ⟨hnone, hheld, ho, haccess⟩ => ⟨hnone, hheld, hovr ho, haccess⟩)

end

/-- A turn that changes nothing leaves the consumer in its place. -/
theorem ConsumerInPlace.keepsHandshake_self {s : State} (hs : ConsumerInPlace s) : KeepsHandshake s s := ⟨hs, .of_hist_eq rfl⟩

/-- The reference engine issues commands of port E only. -/
theorem ConsumerInPlace.engineMove {m : EngineMove} {s t : State} (hs : ConsumerInPlace s) (h : engineMove m s = .next t) :
    KeepsHandshake s t := by
  have issued {a : State} (ht : Machine.takeCommand .engine a = .next t) (ha : ConsumerInPlace a) (hhist : a.hist = s.hist) :
      KeepsHandshake s t := by
    have hkept := ha.keepsHandshake_of_consumerPortKept (takeCommand_rule ht) (takeCommand_keepsConsumerPort (by decide) ht)
    rwa [KeepsHandshake, AnswersOk, hhist] at hkept
  rcases engineMove_cases h with rfl | ⟨_, _, ⟨ch, dw, _, ht⟩ | ⟨ch, _, ht⟩ | ht⟩
  · exact hs.keepsHandshake_self
  all_goals exact issued ht hs rfl

/-! ### The consumer's own commands -/

/-- Port C holds the words of the consumer's command `i` only, and HIST is as in `s`. -/
structure ConsumerIssued (s : State) (i : Instr) (a : State) : Prop where
  sameHist    : a.hist = s.hist
  notWaiting  : a.pendC = none
  onlyCommand : a.portC.stream = encode i

theorem consumerIssued_issue {i : Instr} {s : State} (hi : i.port = .consumer) (hidle : s.portC.stream = []) (hp : s.pendC = none)
    (a : LoopAgent) : ConsumerIssued s i (issue i (s.setCons a)) :=
  ⟨by simp, by simpa using hp, issue_stream_of_idle hi hidle⟩

section
variable {s a t : State} {i : Instr} (h : ConsumerIssued s i a)
include h

/-- The command port C holds is the one it runs. -/
theorem ConsumerIssued.exec (hi : i.port = .consumer) (hwf : i.wf a.cfg = true) (ht : takeCommand .consumer a = .next t) :
    exec i a = .next t := by
  have hnext : nextCommand (a.port .consumer).stream = some (i.cw, i.dw) := by
    rw [State.port, h.onlyCommand, ← List.append_nil (encode i), nextCommand_encode]
  have hdec := decode_cw hwf 0#32
  rw [hi] at hdec
  rwa [takeCommand_eq_runCommand (p := .consumer) h.notWaiting hnext, runCommand_of_decode_ok hdec] at ht

/-- An OK leaves port C idle; the consumer goes on in its loop if its phase fits the block it holds then. -/
theorem ConsumerIssued.complete (hi : i.port = .consumer) (hphase : a.cons.phase = .take ↔ a.held.valid = false) (data : Word)
    (drawn : Bool) : KeepsHandshake s (complete i.port i.cw i.dw .ok data drawn a) := by
  refine ⟨.inl ⟨by simpa using h.notWaiting, ?_, by simpa using hphase⟩,
    .of_append (l := [_]) (by rw [complete_hist, h.sameHist]) ?_⟩
  · have hidle := complete_stream_of_encode (i := i) (s := a) (by rw [hi]; exact h.onlyCommand) .ok data drawn
    rwa [hi] at hidle ⊢
  · intro r hmem _
    cases List.mem_singleton.mp hmem
    rfl

/-- MF1 leaves the words of the access on port C. -/
theorem ConsumerIssued.overrun (hi : AccessesBlock a.cfg i) (hv : a.held.valid = true) (ho : a.held.ovr = true) :
    KeepsHandshake s (raiseFault .mf1 a) :=
  ⟨.inr (.inr ⟨h.notWaiting, hv, ho, i, hi, h.onlyCommand⟩), .of_hist_eq h.sameHist⟩

/-- An access to a block that was overrun halts the consumer; to a current one it is done. -/
theorem ConsumerIssued.access (hi : AccessesBlock a.cfg i) (hv : a.held.valid = true)
    (hphase : a.held.ovr = false → a.cons.phase ≠ .take) (ht : takeCommand .consumer a = .next t) : KeepsHandshake s t := by
  have halted := h.overrun hi hv
  obtain ⟨ch, off, hr, hi⟩ := hi
  have hexec : Machine.exec i a = .next t := by
    rcases hi with rfl | ⟨dw, rfl⟩ <;> exact h.exec rfl (decide_eq_true hr) ht
  cases ho : a.held.ovr with
  | true =>
    have hfault : Machine.exec i a = .next (raiseFault .mf1 a) := by
      rcases hi with rfl | ⟨dw, rfl⟩
      · exact exec_crd_of_overrun hr hv ho
      · exact exec_cwr_of_overrun dw hr hv ho
    cases hexec.symm.trans hfault
    exact halted ho
  | false =>
    have hplace : a.cons.phase = .take ↔ a.held.valid = false := by simp [hphase ho, hv]
    rcases hi with rfl | ⟨dw, rfl⟩
    · rw [exec_crd_of_held hr hv ho, respondRead] at hexec
      split at hexec <;> cases hexec
      · exact h.complete rfl hplace ..
      · exact ConsumerIssued.complete (a := spendDraw a) { h with } rfl hplace ..
    · cases (exec_cwr_of_held dw hr hv ho).symm.trans hexec
      exact ConsumerIssued.complete (a := bufWrite .output ch a.held.idx off dw a) { h with } rfl hplace ..

end

/-- A delivery answers the TAKE at the head of port C; the consumer then holds a block, and reads it. -/
theorem deliverBlock_keepsHandshake {s a : State} {tmo : BitVec 24} (hhist : a.hist = s.hist)
    (hstream : a.portC.stream = encode (.take tmo)) (hphase : a.cons.phase = .read) : KeepsHandshake s (deliverBlock tmo a) :=
  ConsumerIssued.complete (i := .take tmo)
    (a := { a with held := ⟨true, a.slot.idx, a.slot.final, false⟩, slot := { a.slot with full := false }, pendC := none })
    ⟨hhist, rfl, hstream⟩ rfl (by simp [hphase]) ..

section
variable {s t : State}

theorem ConsumerInLoop.take (hs : ConsumerInLoop s) (hphase : s.cons.phase = .take)
    (ht : takeCommand .consumer (issue (.take 0xFFFFFF#24) (s.setCons ⟨.read, []⟩)) = .next t) : KeepsHandshake s t := by
  obtain ⟨hp, hidle, hplace⟩ := hs
  have hissued := consumerIssued_issue (i := .take 0xFFFFFF#24) rfl hidle hp ⟨.read, []⟩
  have hexec := hissued.exec rfl rfl ht
  have hnone := hplace.mp hphase
  cases hfull : s.slot.full with
  | true =>
    cases (exec_take_of_full (by simpa using hnone) (by simpa using hfull) _).symm.trans hexec
    exact deliverBlock_keepsHandshake hissued.sameHist hissued.onlyCommand (by simp)
  | false =>
    cases (exec_take_of_wait (by simpa using hnone) (by simpa using hfull) (by decide)).symm.trans hexec
    exact ⟨.inr (.inl ⟨rfl, hissued.onlyCommand, by simp⟩), .of_hist_eq hissued.sameHist⟩

/-- A command of the loop past its TAKE finds a block held. -/
theorem ConsumerInLoop.held_valid (hs : ConsumerInLoop s) (hphase : s.cons.phase ≠ .take) : s.held.valid = true := by
  obtain ⟨_, _, hplace⟩ := hs
  simpa [hplace] using hphase

/-- A read or a write of the loop, after which words of the block or the next phase are still to come. -/
theorem ConsumerInLoop.access (hs : ConsumerInLoop s) {i : Instr} {a : LoopAgent} (hi : AccessesBlock s.cfg i)
    (hport : i.port = .consumer) (hphase : s.cons.phase ≠ .take) (ha : a.phase ≠ .take)
    (ht : takeCommand .consumer (issue i (s.setCons a)) = .next t) : KeepsHandshake s t := by
  have hheld := hs.held_valid hphase
  obtain ⟨hp, hidle, _⟩ := hs
  exact (consumerIssued_issue hport hidle hp a).access (by simpa using hi) (by simpa using hheld) (fun _ => by simpa using ha) ht

theorem ConsumerInLoop.release (hs : ConsumerInLoop s) (hphase : s.cons.phase = .release)
    (ht : takeCommand .consumer (issue .done (s.setCons LoopAgent.start)) = .next t) : KeepsHandshake s t := by
  have hheld := hs.held_valid (by simp [hphase])
  obtain ⟨hp, hidle, _⟩ := hs
  have hissued := consumerIssued_issue (i := .done) rfl hidle hp LoopAgent.start
  cases (exec_done_of_held (by simpa using hheld)).symm.trans (hissued.exec rfl rfl ht)
  refine ConsumerIssued.complete (i := .done) ?_ rfl (by simp [LoopAgent.start]) ..
  exact { hissued with }

/-- Seeing a word never leads back to the phase before TAKE. -/
theorem LoopAgent.see_phase_ne_take {a : LoopAgent} {next : LoopPhase} (ha : a.phase ≠ .take) (hnext : next ≠ .take) (c : Config)
    (ch : Channel) (off : BitVec 16) : (a.see c ch off next).phase ≠ .take := by
  rcases a.see_cases c ch off next with ⟨_, hsee⟩ | ⟨_, hsee⟩ <;> rw [hsee]
  · exact hnext
  · exact ha

/-- An idle port C with nothing outstanding is the consumer in its loop. -/
theorem ConsumerInPlace.inLoop (hs : ConsumerInPlace s) (hidle : s.portC.stream = []) : ConsumerInLoop s := by
  rcases hs with hloop | ⟨_, htake, _⟩ | ⟨_, _, _, i, _, hi⟩
  · exact hloop
  · cases hidle.symm.trans htake
  · cases hidle.symm.trans hi

theorem ConsumerInPlace.consumerMove {m : ConsumerMove} (hs : ConsumerInPlace s) (h : consumerMove m s = .next t) :
    KeepsHandshake s t := by
  rcases consumerMove_cases h with rfl | ⟨hidle, _, hmove⟩
  · exact hs.keepsHandshake_self
  have hloop := hs.inLoop hidle
  rcases hmove with ⟨hphase, ht⟩ | ⟨ch, off, hphase, hw, ht⟩ | ⟨ch, off, dw, hphase, hw, ht⟩ | ⟨hphase, ht⟩
  · exact hloop.take hphase ht
  · have hpast : s.cons.phase ≠ .take := by simp [hphase]
    exact hloop.access ⟨ch, off, LoopAgent.wantsRead_lt hw, .inl rfl⟩ rfl hpast (LoopAgent.see_phase_ne_take hpast (by decide) _ _ _) ht
  · have hpast : s.cons.phase ≠ .take := by simp [hphase]
    exact hloop.access ⟨ch, off, LoopAgent.wantsWrite_lt hw, .inr ⟨dw, rfl⟩⟩ rfl hpast
      (LoopAgent.see_phase_ne_take hpast (by decide) _ _ _) ht
  · exact hloop.release hphase ht

/-- Port C has no command to take in the loop, takes none during TAKE, and repeats the access that halted the consumer. -/
theorem ConsumerInPlace.takeCommand (hs : ConsumerInPlace s) (h : takeCommand .consumer s = .next t) : KeepsHandshake s t := by
  have idle (hno : turnEnabled (.command .consumer) s = false) : KeepsHandshake s t := by
    cases (takeCommand_of_not_enabled hno).symm.trans h
    exact hs.keepsHandshake_self
  rcases hs with ⟨_, hidle, _⟩ | ⟨hp, _⟩ | ⟨hp, hv, ho, i, hi, hstream⟩
  · exact idle (by simp [turnEnabled, State.port, hidle, nextCommand])
  · exact idle (by simp [turnEnabled, State.pending, hp])
  · exact ConsumerIssued.access ⟨rfl, hp, hstream⟩ hi hv (fun hno => absurd ho (ne_true_of_eq_false hno)) h

/-! ### Every step -/

theorem ConsumerInPlace.deliveryStep (hs : ConsumerInPlace s) : KeepsHandshake s (deliveryStep s) := by
  cases hen : turnEnabled .deliver s with
  | false =>
    rw [deliveryStep_of_not_enabled hen]
    exact hs.keepsHandshake_self
  | true =>
    obtain ⟨hpend, hfull⟩ := Bool.and_eq_true_iff.mp hen
    rcases hs with ⟨hnone, _⟩ | ⟨htmo, hstream, hphase⟩ | ⟨hnone, _⟩
    · simp [hnone] at hpend
    · rw [Machine.deliveryStep, htmo]
      simpa only [hfull, if_true] using deliverBlock_keepsHandshake rfl hstream hphase
    · simp [hnone] at hpend

/-- A TAKE INF never times out. -/
theorem ConsumerInPlace.takeTimeoutStep (hs : ConsumerInPlace s) : KeepsHandshake s (takeTimeoutStep s) := by
  have hno : turnEnabled .takeTimeout s = false := by
    rcases hs with ⟨hnone, _⟩ | ⟨htmo, _⟩ | ⟨hnone, _⟩
    · exact takeTimeout_not_enabled (.inr (.inr hnone))
    · exact takeTimeout_not_enabled (.inr (.inl htmo))
    · exact takeTimeout_not_enabled (.inr (.inr hnone))
  rw [takeTimeoutStep_of_not_enabled hno]
  exact hs.keepsHandshake_self

theorem ConsumerInPlace.runTurn {u : Turn} (hs : ConsumerInPlace s) (h : runTurn u s = .next t) : KeepsHandshake s t := by
  rcases runTurn_cases h with ⟨p, _, hp⟩ | ⟨_, rfl⟩ | ⟨_, rfl⟩ | ⟨_, rfl⟩ | ⟨_, rfl⟩ | ⟨m, _, hm⟩ | ⟨m, _, hm⟩
  · by_cases hport : p = .consumer
    · subst hport
      exact hs.takeCommand hp
    · exact hs.keepsHandshake_of_consumerPortKept (takeCommand_rule hp) (takeCommand_keepsConsumerPort hport hp)
  · exact hs.deliveryStep
  · exact hs.takeTimeoutStep
  · exact hs.keepsHandshake_of_consumerPortKept (finishStep_rule s) (finishStep_keepsConsumerPort s)
  · exact hs.keepsHandshake_of_consumerPortKept (drainTimeoutStep_rule s) (drainTimeoutStep_keepsConsumerPort s)
  · exact hs.engineMove hm
  · exact hs.consumerMove hm

end

/-- MF1 is recorded for an access to an overrun block only (60_exceptions.md R186). -/
theorem RuleStep.overrun_of_mf1 {s t : State} (h : RuleStep s t) (hne : t.faults.mf1 ≠ s.faults.mf1) :
    s.held.valid = true ∧ s.held.ovr = true := by
  cases h with
  | fault f hf =>
    rcases hf with ⟨_, hheld⟩ | ⟨rfl, _⟩ | ⟨rfl, _⟩
    · exact hheld
    · exact absurd rfl hne
    · exact absurd rfl hne
  | _ => exact absurd (by simp) hne

/-- Settles O54: every kind of turn leaves the consumer in its place with its commands answered OK, and whatever the agents do,
only an access to an overrun block records MF1. -/
theorem referenceConsumerKeepsTheHandshake : Obligations.ReferenceConsumerKeepsTheHandshake := by
  intro s t hs h
  obtain ⟨hcoherent, hplace⟩ := (referenceConsumerOnly_iff s).mp hs
  have hkept : KeepsHandshake s t := by
    rcases step_cases h with ⟨_, rfl⟩ | ⟨u, us, _, hu⟩
    · exact hplace.keepsHandshake_self
    · exact ConsumerInPlace.runTurn (s := s.setSched us) hplace hu
  obtain ⟨hplace', hok⟩ := hkept
  refine ⟨(referenceConsumerOnly_iff t).mpr ⟨stepKeepsCoherence s t hcoherent h, hplace'⟩, hok, fun hne => ?_⟩
  obtain ⟨a, ha, hr⟩ := step_rule h
  rw [← ha.faults] at hne
  rw [← ha.held]
  exact hr.overrun_of_mf1 hne

end Sys2Proof.Machine
end

section
/-! The parameters and the engine's halt: the one way to act that writes RATE and SIZE, and the one that clears ENG_EN, each with its
guard and the record it ends with (43_controller.md R152, R158; 40_engine.md R104). -/

namespace Sys2Proof.Machine

@[simp] theorem applyEvent_rate (tc : Bool) (s : State) : (applyEvent tc s).rate = s.rate := by unfold applyEvent; split <;> rfl
@[simp] theorem applyEvent_size (tc : Bool) (s : State) : (applyEvent tc s).size = s.size := by unfold applyEvent; split <;> rfl
@[simp] theorem deliverBlock_rate (tmo : BitVec 24) (s : State) : (deliverBlock tmo s).rate = s.rate := respond_rate ..
@[simp] theorem deliverBlock_size (tmo : BitVec 24) (s : State) : (deliverBlock tmo s).size = s.size := respond_size ..
@[simp] theorem deliverBlock_engEn (tmo : BitVec 24) (s : State) : (deliverBlock tmo s).engEn = s.engEn := respond_engEn ..
@[simp] theorem finishDrain_rate (tmo : BitVec 24) (s : State) : (finishDrain tmo s).rate = s.rate := respond_rate ..
@[simp] theorem finishDrain_size (tmo : BitVec 24) (s : State) : (finishDrain tmo s).size = s.size := respond_size ..
@[simp] theorem finishDrain_engEn (tmo : BitVec 24) (s : State) : (finishDrain tmo s).engEn = s.engEn := respond_engEn ..

theorem SameHardware.rate {s a : State} (h : SameHardware s a) : a.rate = s.rate := congrArg Control.rate h.control
theorem SameHardware.size {s a : State} (h : SameHardware s a) : a.size = s.size := congrArg Control.size h.control

/-- An applied EVT clears ENG_EN only where the stop is armed (40_engine.md R104). -/
theorem applyEvent_engEn (tc : Bool) (s : State) : (applyEvent tc s).engEn = if s.stopArm then false else s.engEn := by
  unfold applyEvent; split <;> rfl

/-- The one way to act that writes RATE and SIZE. -/
theorem RuleStep.parameters_write {s t : State} (h : RuleStep s t) (hne : t.rate ≠ s.rate ∨ t.size ≠ s.size) :
    s.state = .idle ∧ t.state = .idle ∧
      t.hist.getLast? = some (.command ⟨.host, (Instr.reconf t.rate t.size).cw, none, .ok, 0#32, false⟩) := by
  cases h with
  | reconf _ _ hidle =>
    exact ⟨hidle, by simpa using hidle, respond_hist_getLast? ..⟩
  | same | answer | fault | read | write | init | start | stop | pendDrain | finish | drainTimeout | pendTake | deliver | takeTimeout |
    release | event =>
    simp at hne

/-- Settles O39: RECONF is the only way to act that writes RATE or SIZE, and it is taken in Idle. -/
theorem parametersAreFrozenOutsideIdle : Obligations.ParametersAreFrozenOutsideIdle := by
  intro s t h hne
  obtain ⟨a, ha, hr⟩ := step_rule h
  rw [← ha.rate, ← ha.size] at hne
  rw [← ha.state]
  exact hr.parameters_write hne

/-- The one way to act that clears ENG_EN. -/
theorem RuleStep.engine_halts {s t : State} (h : RuleStep s t) (hon : s.engEn = true) (hoff : t.engEn = false) :
    s.stopArm = true ∧ t.state = .draining ∧ t.slot = ⟨true, t.bufIdx, true⟩ ∧
      t.hist.getLast? = some (.command ⟨.engine, (Instr.evt t.bufIdx).cw, none, .ok, 1#32, false⟩) := by
  cases h with
  | event tc _ =>
    have hstop : s.stopArm = true := by
      by_contra hrun
      simp [applyEvent_engEn, hrun, hon] at hoff
    rw [applyEvent_of_stopArm hstop]
    exact ⟨hstop, respond_state .., respond_slot .., respond_hist_getLast? ..⟩
  | same | answer | fault | read | write | init | start | stop | pendDrain | finish | drainTimeout | reconf | pendTake | deliver |
    takeTimeout | release =>
    simp [hon] at hoff

/-- Settles O40: of the ways to act only an applied EVT with the stop armed clears ENG_EN. -/
theorem engineStopsOnlyAtABoundary : Obligations.EngineStopsOnlyAtABoundary := by
  intro s t h hon hoff
  obtain ⟨a, ha, hr⟩ := step_rule h
  rw [← ha.engEn] at hon
  rw [← ha.stopArm]
  exact hr.engine_halts hon hoff

end Sys2Proof.Machine
end

section
/-! The controller family, one equation per case of a command's rule and of WDRAIN's two completion steps
(43_controller.md R151 to R157). -/

namespace Sys2Proof.Machine

/-! ### START -/

theorem exec_start_of_idle {s : State} (hidle : s.state = .idle) (hinit : s.initd = true) :
    exec .start s = .next (respond .start .ok 0#32
      { emit .xportClrFlags { s with stopArm := false, drainDone := false } with
        engEn := true, xportEn := true, state := .streaming }) := by
  simp [exec, execStart, hidle, hinit]

theorem exec_start_of_refused {s : State} (h : s.state ≠ .idle ∨ s.initd = false) :
    exec .start s = .next (respond .start .invalidState 0#32 s) := by
  rcases h with hstate | hinit
  · simp [exec, execStart, hstate]
  · simp [exec, execStart, hinit]

/-- Settles O23: the two cases of START, and the decoder's check of the reserved bits. -/
theorem startResumesTheEngineFromIdle : Obligations.StartResumesTheEngineFromIdle := by
  refine ⟨fun s hidle hinit => ?_, fun s h => exec_start_of_refused h, reservedBitIllegal .start⟩
  rw [exec_start_of_idle hidle hinit, List.append_cons]
  rfl

/-! ### STOP -/

theorem exec_stop_of_streaming {s : State} (h : s.state = .streaming) :
    exec .stop s = .next (respond .stop .ok 0#32 { s with state := .stopRequested, stopArm := true }) := by
  simp [exec, execStop, h]

theorem exec_stop_of_refused {s : State} (h : s.state ≠ .streaming) :
    exec .stop s = .next (respond .stop .invalidState 0#32 s) := by
  simp [exec, execStop, h]

/-- Settles O24: the two cases of STOP, and the decoder's check of the reserved bits. -/
theorem stopArmsTheBoundaryWithoutWaiting : Obligations.StopArmsTheBoundaryWithoutWaiting :=
  ⟨fun _ h => exec_stop_of_streaming h, fun _ h => exec_stop_of_refused h, reservedBitIllegal .stop⟩

/-! ### WDRAIN, the issuing step -/

theorem exec_wdrain_of_refused {s : State} (h : s.state = .idle ∨ s.state = .streaming) (tmo : BitVec 24) :
    exec (.wdrain tmo) s = .next (respond (.wdrain tmo) .invalidState 0#32 s) := by
  simp [exec, execWdrain, h]

section
variable {s : State} (hstate : s.state = .stopRequested ∨ s.state = .draining)
include hstate

/-- While a stop is under way WDRAIN passes its state check. -/
theorem drainWait_accepted : (s.state == .idle || s.state == .streaming) = false := by
  rcases hstate with h | h <;> rw [h] <;> rfl

theorem exec_wdrain_of_drainDone (hd : s.drainDone = true) (tmo : BitVec 24) :
    exec (.wdrain tmo) s = .next (finishDrain tmo s) := by
  simp [exec, execWdrain, drainWait_accepted hstate, hd]

theorem exec_wdrain_of_poll (hd : s.drainDone = false) :
    exec (.wdrain 0#24) s = .next (respond (.wdrain 0#24) .timeout 0#32 s) := by
  simp [exec, execWdrain, drainWait_accepted hstate, hd, isPoll]

theorem exec_wdrain_of_wait {tmo : BitVec 24} (hd : s.drainDone = false) (ht : tmo ≠ 0#24) :
    exec (.wdrain tmo) s = .next { s with pendH := some tmo } := by
  simp [exec, execWdrain, drainWait_accepted hstate, hd, isPoll, ht]

end

/-- Settles O25: the four cases of WDRAIN, and the decoder's check of the reserved bits. -/
theorem drainWaitFinishesPollsOrPends : Obligations.DrainWaitFinishesPollsOrPends :=
  ⟨fun _ tmo h => exec_wdrain_of_refused h tmo,
    fun _ tmo h hd => exec_wdrain_of_drainDone h hd tmo,
    fun _ h hd => exec_wdrain_of_poll h hd,
    fun _ _ h hd ht => exec_wdrain_of_wait h hd ht,
    reservedBitIllegal .wdrain⟩

/-! ### WDRAIN, the completion steps -/

theorem runTurn_drainTimeout_of_finite {s : State} {tmo : BitVec 24} (hp : s.pendH = some tmo) (hfin : isFinite tmo = true)
    (hd : s.drainDone = false) :
    runTurn .drainTimeout s = .next (respond (.wdrain tmo) .timeout 0#32 { s with pendH := none }) := by
  simp [runTurn, drainTimeoutStep, hp, hfin, hd]

theorem finish_not_enabled {s : State} (h : s.pendH = none ∨ s.drainDone = false) : turnEnabled .finish s = false := by
  rcases h with hnone | hwait
  · simp [turnEnabled, hnone]
  · simp [turnEnabled, hwait]

theorem drainTimeout_not_enabled {s : State} (h : s.drainDone = true ∨ s.pendH = some 0xFFFFFF#24 ∨ s.pendH = none) :
    turnEnabled .drainTimeout s = false := by
  rcases h with hdone | hindefinite | hnone
  · simp [turnEnabled, hdone]
  · simp [turnEnabled, hindefinite, isFinite, isIndefinite]
  · simp [turnEnabled, hnone]

/-- Settles O26: the two steps where they are enabled; where they are not, the turn changes nothing by O12. -/
theorem outstandingDrainWaitFinishesOrTimesOut : Obligations.OutstandingDrainWaitFinishesOrTimesOut :=
  ⟨fun _ _ hp hd => runTurn_finish_of_drainDone hp hd,
    fun s h => disabledTurnChangesNothing _ s (finish_not_enabled h),
    fun _ _ hp hpos hlt hd => runTurn_drainTimeout_of_finite hp (isFinite_of_bounds hpos hlt) hd,
    fun s h => disabledTurnChangesNothing _ s (drainTimeout_not_enabled h)⟩

/-! ### RECONF -/

theorem exec_reconf_of_idle {s : State} (h : s.state = .idle) (rate : BitVec 20) (size : BitVec 6) :
    exec (.reconf rate size) s =
      .next (respond (.reconf rate size) .ok 0#32 (emit (.xportCfg rate size) { s with rate := rate, size := size })) := by
  simp [exec, execReconf, h]

theorem exec_reconf_of_refused {s : State} (h : s.state ≠ .idle) (rate : BitVec 20) (size : BitVec 6) :
    exec (.reconf rate size) s = .next (respond (.reconf rate size) .invalidState 0#32 s) := by
  simp [exec, execReconf, h]

/-- Settles O27: the two cases of RECONF, and the decoder's check of the reserved bits. -/
theorem reconfChangesParametersInIdle : Obligations.ReconfChangesParametersInIdle := by
  refine ⟨fun s rate size h => ?_, fun s rate size h => exec_reconf_of_refused h rate size, reservedBitIllegal .reconf⟩
  rw [exec_reconf_of_idle h, List.append_cons]
  rfl

end Sys2Proof.Machine
end

section
/-! The diagnostics family: the fields of STAT's two images and one equation per case of BUFRD's rule (44_diagnostics.md R170, R171). -/

namespace Sys2Proof.Machine

/-! ### STAT -/

/-- STATE stands in bits 1 and 0 of the status image (10_state.md R38). -/
theorem statusImage_extract_state (s : State) : (statusImage s).extractLsb' 0 2 = s.state.code := by
  ext k hk
  rw [BitVec.getElem_extractLsb', Nat.zero_add, statusImage_getLsbD, if_pos hk, BitVec.getLsbD_eq_getElem hk]

/-- Bits 31 to 14 of the status image are 0 (10_state.md R38). -/
theorem statusImage_extract_unused (s : State) : (statusImage s).extractLsb' 14 18 = 0#18 := by
  ext k hk
  rw [BitVec.getElem_extractLsb', Nat.add_comm, statusImage_getLsbD, if_neg (by omega), BitVec.getElem_zero]
  rfl

theorem paramsImage_extract_rate (s : State) : (paramsImage s).extractLsb' 0 20 = s.rate := by
  ext k hk
  rw [BitVec.getElem_extractLsb', Nat.zero_add, paramsImage_getLsbD, if_pos hk, BitVec.getLsbD_eq_getElem hk]

theorem paramsImage_extract_size (s : State) : (paramsImage s).extractLsb' 20 6 = s.size := by
  ext k hk
  rw [BitVec.getElem_extractLsb', paramsImage_getLsbD, if_neg (by omega), Nat.add_sub_cancel_left, BitVec.getLsbD_eq_getElem hk]

theorem paramsImage_extract_unused (s : State) : (paramsImage s).extractLsb' 26 6 = 0#6 := by
  ext k hk
  rw [BitVec.getElem_extractLsb', paramsImage_getLsbD, if_neg (by omega), BitVec.getLsbD_of_ge _ _ (by omega),
    BitVec.getElem_zero]

/-- Settles O28: STAT only responds, and each field of its image is where R38 or R39 puts it. -/
theorem statAnswersTheImages : Obligations.StatAnswersTheImages := by
  refine ⟨fun s => ⟨statusImage s, rfl, ?_, ?_⟩, fun s => ⟨paramsImage s, rfl, paramsImage_extract_rate s,
    paramsImage_extract_size s, paramsImage_extract_unused s⟩, reservedBitIllegal .stat⟩
  · rw [statusImage_extract_state]
    cases s.state <;> rfl
  · simp only [statusImage_getLsbD, statusImage_extract_unused, Nat.reduceLT, if_false, and_self]

/-! ### BUFRD -/

section
variable {s : State} {off : BitVec 16}

theorem exec_bufrd_of_out_of_range (h : s.cfg.ns ≤ off.toNat) (dir : Dir) (ch : Channel) (half : Bool) :
    exec (.bufrd dir ch half off) s = .next (respond (.bufrd dir ch half off) .illegal 0#32 s) := by
  simp [exec, execBufrd, offInRange_of_ge h]

theorem exec_bufrd_of_refused (h : off.toNat < s.cfg.ns) (hstate : s.state ≠ .idle) (dir : Dir) (ch : Channel) (half : Bool) :
    exec (.bufrd dir ch half off) s = .next (respond (.bufrd dir ch half off) .invalidState 0#32 s) := by
  simp [exec, execBufrd, offInRange_of_lt h, hstate]

theorem exec_bufrd_of_idle (h : off.toNat < s.cfg.ns) (hidle : s.state = .idle) (dir : Dir) (ch : Channel) (half : Bool) :
    exec (.bufrd dir ch half off) s = .next (respondRead (.bufrd dir ch half off) dir ch half off s) := by
  simp [exec, execBufrd, offInRange_of_lt h, hidle]

end

/-- Settles O29: the four cases of BUFRD (a defined word, an UNDEF word, and the two errors), and the decoder's check of the reserved bits. -/
theorem dumpReadsOneWordInIdle : Obligations.DumpReadsOneWordInIdle := by
  refine ⟨fun s dir ch half off w hr hidle hw => ?_, fun s dir ch half off hr hidle hw => ⟨drawnSample s, drawnSample_lt s, ?_⟩,
    fun _ dir ch half _ hr => exec_bufrd_of_out_of_range hr dir ch half,
    fun _ dir ch half _ hr hstate => exec_bufrd_of_refused hr hstate dir ch half,
    reservedBitIllegal .bufrd⟩
  · rw [exec_bufrd_of_idle hr hidle, respondRead_of_defined hw]
    rfl
  · rw [exec_bufrd_of_idle hr hidle, respondRead_of_undef hw]
    rfl

end Sys2Proof.Machine
end

section
/-! How a command ends (60_exceptions.md R180 to R187): with an error, a model fault, waiting, or an OK; the checks of a rule and the
tables of INVALID_STATE and of the model faults agree. -/

namespace Sys2Proof.Machine

/-! ### The table of model faults -/

section
variable {s : State} {ch : Channel} {off : BitVec 16}

theorem faultOf_crd (hr : off.toNat < s.cfg.ns) (hv : s.held.valid = true) :
    faultOf (.crd ch off) s = if s.held.ovr = true then some .mf1 else none := by
  simp [faultOf, Instr.wf, Instr.offset, refusedInState, hr, hv]

theorem faultOf_cwr (hr : off.toNat < s.cfg.ns) (hv : s.held.valid = true) (dw : Word) :
    faultOf (.cwr ch off dw) s = if s.held.ovr = true then some .mf1 else none := by
  simp [faultOf, Instr.wf, Instr.offset, refusedInState, hr, hv]

theorem faultOf_ewr (hr : off.toNat < s.cfg.ns) (half : Bool) (dw : Word) :
    faultOf (.ewr ch half off dw) s = engineFault half s := by
  simp [faultOf, Instr.wf, Instr.offset, refusedInState, hr]

theorem faultOf_erd (hr : off.toNat < s.cfg.ns) (half : Bool) : faultOf (.erd ch half off) s = engineFault half s := by
  simp [faultOf, Instr.wf, Instr.offset, refusedInState, hr]

end

/-- A command that faults has passed its range check and its state check. -/
theorem checks_of_faultOf {i : Instr} {s : State} {f : ModelFault} (h : faultOf i s = some f) :
    i.wf s.cfg = true ∧ refusedInState i s = false := by
  unfold faultOf at h
  split at h
  · cases h
  next hwf =>
  split at h
  · cases h
  next hok => exact ⟨Bool.eq_true_of_not_eq_false hwf, Bool.eq_false_of_not_eq_true hok⟩

theorem engineFault_of_disarmed {half : Bool} {s : State} (hoff : s.engEn = false) : engineFault half s = some .mf3 := if_pos hoff

theorem engineFault_of_other_half {half : Bool} {s : State} (hon : s.engEn = true) (hh : half = s.bufIdx) :
    engineFault half s = some .mf2 := by
  rw [engineFault, if_neg (ne_false_of_eq_true hon), if_pos hh]

/-- The two faults of an engine access: the engine disarmed, or the half the PPBA's. -/
theorem engineFault_cases {half : Bool} {s : State} {f : ModelFault} (h : engineFault half s = some f) :
    (s.engEn = false ∧ f = .mf3) ∨ (s.engEn = true ∧ half = s.bufIdx ∧ f = .mf2) := by
  unfold engineFault at h
  split at h
  · next hoff => cases h; exact .inl ⟨hoff, rfl⟩
  next hon =>
  split at h <;> cases h
  next hhalf => exact .inr ⟨Bool.eq_true_of_not_eq_false hon, hhalf, rfl⟩

/-- A command the fault table names does nothing but record its fault. -/
theorem exec_of_fault {i : Instr} {s : State} {f : ModelFault} (h : faultOf i s = some f) :
    exec i s = .next (raiseFault f s) := by
  obtain ⟨hwf, hok⟩ := checks_of_faultOf h
  cases i with
  | crd ch off =>
    have hr : off.toNat < s.cfg.ns := of_decide_eq_true hwf
    have hv : s.held.valid = true := by simpa [refusedInState] using hok
    rw [faultOf_crd hr hv] at h
    split at h <;> cases h
    next ho => exact exec_crd_of_overrun hr hv ho
  | cwr ch off dw =>
    have hr : off.toNat < s.cfg.ns := of_decide_eq_true hwf
    have hv : s.held.valid = true := by simpa [refusedInState] using hok
    rw [faultOf_cwr hr hv] at h
    split at h <;> cases h
    next ho => exact exec_cwr_of_overrun dw hr hv ho
  | ewr ch half off dw =>
    have hr : off.toNat < s.cfg.ns := of_decide_eq_true hwf
    rw [faultOf_ewr hr] at h
    rcases engineFault_cases h with ⟨hoff, rfl⟩ | ⟨hon, hhalf, rfl⟩
    · exact exec_ewr_of_disarmed dw hr hoff
    · exact exec_ewr_of_other_half dw hr hon hhalf
  | erd ch half off =>
    have hr : off.toNat < s.cfg.ns := of_decide_eq_true hwf
    rw [faultOf_erd hr] at h
    rcases engineFault_cases h with ⟨hoff, rfl⟩ | ⟨hon, hhalf, rfl⟩
    · exact exec_erd_of_disarmed hr hoff
    · exact exec_erd_of_other_half hr hon hhalf
  | _ => simp [faultOf] at h

/-! ### The table of INVALID_STATE -/

/-- A well-formed command the table of INVALID_STATE names does nothing but complete with it. -/
theorem exec_of_refused {i : Instr} {s : State} (hwf : i.wf s.cfg = true) (h : refusedInState i s = true) :
    exec i s = .next (respond i .invalidState 0#32 s) := by
  cases i with
  | init | start | stop | wdrain | reconf | take | done => exact if_pos h
  | stat | evt | ewr | erd => cases h
  | bufrd dir ch half off =>
    exact exec_bufrd_of_refused (of_decide_eq_true hwf) (by simpa [refusedInState] using h) dir ch half
  | crd ch off => exact exec_crd_of_none (of_decide_eq_true hwf) (by simpa [refusedInState] using h)
  | cwr ch off dw => exact exec_cwr_of_none dw (of_decide_eq_true hwf) (by simpa [refusedInState] using h)

/-! ### The ends of a command -/

/-- A TAKE or WDRAIN with TMO = 0 whose condition is false (60_exceptions.md R182). -/
def PollsInVain (i : Instr) (s : State) : Prop :=
  (i = .take 0#24 ∧ s.slot.full = false) ∨ (i = .wdrain 0#24 ∧ s.drainDone = false)

/-- What an error status of a command says of the state it ran in. -/
def HasError (i : Instr) (s : State) : Status → Prop
  | .ok => False
  | .timeout => PollsInVain i s
  | .invalidState => refusedInState i s = true
  | .illegal => i.wf s.cfg = false

/-- The ways a command's rule ends in its issuing step. -/
inductive CommandEnds (i : Instr) (s : State) : State → Prop where
  | error (sts) : HasError i s sts → CommandEnds i s (respond i sts 0#32 s)
  | fault (f) : faultOf i s = some f → CommandEnds i s (raiseFault f s)
  | waits (t) : t.hist = s.hist → t.faults = s.faults → CommandEnds i s t
  | ok (data drawn a) : a.faults = s.faults → CommandEnds i s (complete i.port i.cw i.dw .ok data drawn a)

/-- The result is a next state in which the command has ended in one of these ways. -/
def ResultEnds (i : Instr) (s : State) (r : Result) : Prop := ∃ t, r = .next t ∧ CommandEnds i s t

section
variable {i : Instr} {s : State}

theorem ResultEnds.ite {c : Prop} [Decidable c] {a b : Result} (ha : c → ResultEnds i s a) (hb : ¬ c → ResultEnds i s b) :
    ResultEnds i s (if c then a else b) := by
  split
  · next h => exact ha h
  · next h => exact hb h

/-- A check of the rule that completes the command with an error. -/
theorem ResultEnds.check {c : Prop} [Decidable c] {sts : Status} {b : Result} (hc : c → HasError i s sts)
    (hb : ¬ c → ResultEnds i s b) : ResultEnds i s (if c then .next (respond i sts 0#32 s) else b) :=
  .ite (fun h => ⟨_, rfl, .error sts (hc h)⟩) hb

/-- A check of the rule that raises a model fault. -/
theorem ResultEnds.faultCheck {c : Prop} [Decidable c] {f : ModelFault} {b : Result} (hc : c → faultOf i s = some f)
    (hb : ¬ c → ResultEnds i s b) : ResultEnds i s (if c then .next (raiseFault f s) else b) :=
  .ite (fun h => ⟨_, rfl, .fault f (hc h)⟩) hb

theorem ResultEnds.answered {a : State} {data : Word} (h : a.faults = s.faults) :
    ResultEnds i s (.next (respond i .ok data a)) := ⟨_, rfl, .ok data false a h⟩

theorem ResultEnds.read {dir : Dir} {ch : Channel} {half : Bool} {off : BitVec 16} :
    ResultEnds i s (.next (respondRead i dir ch half off s)) := by
  unfold respondRead
  split
  · exact .answered rfl
  · exact ⟨_, rfl, .ok _ _ (spendDraw s) rfl⟩

theorem ResultEnds.waiting {t : State} (hh : t.hist = s.hist) (hf : t.faults = s.faults) : ResultEnds i s (.next t) :=
  ⟨t, rfl, .waits t hh hf⟩

end

/-- Every rule ends in one of these ways, check by check. -/
theorem exec_ends (i : Instr) (s : State) : ResultEnds i s (exec i s) := by
  have inRange {off : BitVec 16} (h : ¬ (!offInRange s.cfg off) = true) : off.toNat < s.cfg.ns := by
    simpa [offInRange] using h
  have outOfRange {off : BitVec 16} (h : (!offInRange s.cfg off) = true) : offInRange s.cfg off = false := by
    simpa using h
  cases i with
  | init => exact .check id fun _ => .answered rfl
  | start => exact .check id fun _ => .answered rfl
  | stop => exact .check id fun _ => .answered rfl
  | wdrain tmo =>
    refine .check id fun _ => .ite (fun _ => .answered rfl) fun hd => ?_
    refine .check (fun hp => .inr ⟨?_, by simpa using hd⟩) fun _ => .waiting rfl rfl
    rw [beq_iff_eq.mp hp]
  | reconf rate size => exact .check id fun _ => .answered rfl
  | stat sel => exact .answered rfl
  | bufrd dir ch half off => exact .check outOfRange fun _ => .check id fun _ => .read
  | take tmo =>
    refine .check id fun _ => .ite (fun _ => .answered rfl) fun hf => ?_
    refine .check (fun hp => .inl ⟨?_, by simpa using hf⟩) fun _ => .waiting rfl rfl
    rw [beq_iff_eq.mp hp]
  | done => exact .check id fun _ => .answered rfl
  | crd ch off =>
    refine .check outOfRange fun hr => .check id fun hv => .faultCheck (fun ho => ?_) fun _ => .read
    rw [faultOf_crd (inRange hr) (by simpa using hv), if_pos ho]
  | cwr ch off dw =>
    refine .check outOfRange fun hr => .check id fun hv => .faultCheck (fun ho => ?_) fun _ => .answered rfl
    rw [faultOf_cwr (inRange hr) (by simpa using hv), if_pos ho]
  | evt tc => exact .ite (fun _ => .answered (applyEvent_faults tc s)) fun _ => .answered rfl
  | ewr ch half off dw =>
    refine .check outOfRange fun hr => .faultCheck (fun hoff => ?_) fun hon => .faultCheck (fun hh => ?_) fun _ => .answered rfl
    · rw [faultOf_ewr (inRange hr), engineFault_of_disarmed (by simpa using hoff)]
    · rw [faultOf_ewr (inRange hr), engineFault_of_other_half (by simpa using hon) (by simpa using hh)]
  | erd ch half off =>
    refine .check outOfRange fun hr => .faultCheck (fun hoff => ?_) fun hon => .faultCheck (fun hh => ?_) fun _ => .read
    · rw [faultOf_erd (inRange hr), engineFault_of_disarmed (by simpa using hoff)]
    · rw [faultOf_erd (inRange hr), engineFault_of_other_half (by simpa using hon) (by simpa using hh)]

theorem commandEnds_of_exec {i : Instr} {s t : State} (h : exec i s = .next t) : CommandEnds i s t := by
  obtain ⟨t', ht, hends⟩ := exec_ends i s
  cases h.symm.trans ht
  exact hends

/-- The last entry of HIST after a completion is its record. -/
theorem record_of_complete {p : Port} {cw : Word} {dw : Option Word} {sts : Status} {data : Word} {drawn : Bool} {a : State}
    {l : List HistEntry} {r : CommandRecord} (h : (complete p cw dw sts data drawn a).hist = l ++ [.command r]) :
    r = ⟨p, cw, dw, sts, data, drawn⟩ := by
  rw [complete_hist] at h
  simpa using (List.append_inj_right' h rfl).symm

/-- The one record a step adds to HIST is its last entry. -/
theorem RuleStep.record_last {s t : State} (h : RuleStep s t) {l : List HistEntry} {r : CommandRecord}
    (ht : t.hist = s.hist ++ l) (hr : .command r ∈ l) : ∃ l', t.hist = s.hist ++ l' ++ [.command r] := by
  rcases h.completes with ⟨hhist, _⟩ | ⟨events, r', hhist, _⟩
  · rw [hhist, List.self_eq_append_right] at ht
    cases ht ▸ hr
  · rw [hhist, List.append_assoc, List.append_cancel_left_eq] at ht
    obtain rfl : r = r' := by simpa [← ht] using hr
    exact ⟨_, hhist⟩

/-- The record of a command that responded is its own: an OK, or an error that goes with no other effect. -/
theorem CommandEnds.record {i : Instr} {s t : State} (h : CommandEnds i s t) {l : List HistEntry} {r : CommandRecord}
    (ht : t.hist = s.hist ++ l ++ [.command r]) :
    r.port = i.port ∧ (r.sts = .ok ∨ HasError i s r.sts ∧ r.data = 0#32 ∧ l = [] ∧ t = respond i r.sts 0#32 s) := by
  have silent (hh : t.hist = s.hist) : False := by
    rw [hh, List.append_assoc, List.self_eq_append_right] at ht
    exact List.concat_ne_nil _ _ ht
  cases h with
  | error sts he =>
    obtain rfl := record_of_complete ht
    rw [respond_hist, List.append_cancel_right_eq, List.self_eq_append_right] at ht
    exact ⟨rfl, .inr ⟨he, rfl, ht, rfl⟩⟩
  | fault => exact (silent rfl).elim
  | waits _ hh => exact (silent hh).elim
  | ok =>
    obtain rfl := record_of_complete ht
    exact ⟨rfl, .inl rfl⟩

/-! ### The statements -/

/-- Settles O44: the table's cases respond and do nothing else; a command that responds INVALID_STATE is in the table. -/
theorem invalidStateExactlyAsTheTable : Obligations.InvalidStateExactlyAsTheTable := by
  refine fun i s hwf => ⟨fun hrefused => ?_, fun hok t l h ht r hr hsts => ?_⟩
  · exact ⟨_, exec_of_refused hwf hrefused, respond_hist .., complete_frame ..⟩
  · obtain ⟨l', hlast⟩ := (exec_rule h).record_last ht hr
    obtain ⟨_, herr⟩ := (commandEnds_of_exec h).record hlast
    rw [hsts] at herr
    rcases herr with habsurd | ⟨hrefused, _⟩
    · cases habsurd
    · exact ne_true_of_eq_false hok hrefused

/-- Settles O45: a command the table names only records its fault, and no other end of a command touches FAULTS. -/
theorem modelFaultsExactlyAsTheTable : Obligations.ModelFaultsExactlyAsTheTable := by
  refine fun i s => ⟨fun f hf => exec_of_fault hf, fun hnone t h => ?_⟩
  cases commandEnds_of_exec h with
  | error => exact respond_faults ..
  | fault f hf => cases hnone.symm.trans hf
  | waits _ _ hfaults => exact hfaults
  | ok data drawn a hfaults => exact (complete_faults ..).trans hfaults

/-- Settles O48: the record of an error is the command's whole effect. -/
theorem errorResponsesChangeNothing : Obligations.ErrorResponsesChangeNothing := by
  intro i s t l r h ht hne
  obtain ⟨_, hok | ⟨_, hdata, hl, hresp⟩⟩ := (commandEnds_of_exec h).record ht
  · exact absurd hok hne
  · exact ⟨hdata, hl, hresp ▸ complete_frame ..⟩

end Sys2Proof.Machine
end

section
/-! TIMEOUT (60_exceptions.md R182): the polls of TAKE and WDRAIN and their timeout steps, each while its condition is false. -/

namespace Sys2Proof.Machine

theorem SameHardware.pendH {s a : State} (h : SameHardware s a) : a.pendH = s.pendH := congrArg Control.pendH h.control
theorem SameHardware.pendC {s a : State} (h : SameHardware s a) : a.pendC = s.pendC := congrArg Control.pendC h.control

/-- What is left of a step once the agents' own side has moved on: nothing, a command a port takes, or a completion step. -/
def PortOrCompletion (a t : State) : Prop :=
  t = a ∨ (∃ p, takeCommand p a = .next t) ∨ t = deliveryStep a ∨ t = takeTimeoutStep a ∨ t = finishStep a ∨
    t = drainTimeoutStep a

/-- The agents' own side moves on; then nothing happens, a port takes a command, or an outstanding command completes. -/
theorem step_portOrCompletion {s t : State} (h : step s = .next t) : ∃ a, SameHardware s a ∧ PortOrCompletion a t := by
  rcases step_cases h with ⟨_, rfl⟩ | ⟨u, us, _, hu⟩
  · exact ⟨t, .refl t, .inl rfl⟩
  have hs : SameHardware s (s.setSched us) := sameHardware_setSched s us
  have issued {a : State} {p : Port} {i : Instr} (ha : SameHardware (s.setSched us) a)
      (ht : takeCommand p (issue i a) = .next t) : ∃ b, SameHardware s b ∧ PortOrCompletion b t :=
    ⟨_, hs.trans (ha.trans (sameHardware_issue i a)), .inr (.inl ⟨p, ht⟩)⟩
  rcases runTurn_cases hu with ⟨p, _, hp⟩ | ⟨_, rfl⟩ | ⟨_, rfl⟩ | ⟨_, rfl⟩ | ⟨_, rfl⟩ | ⟨m, _, hm⟩ | ⟨m, _, hm⟩
  · exact ⟨_, hs, .inr (.inl ⟨p, hp⟩)⟩
  · exact ⟨_, hs, .inr (.inr (.inl rfl))⟩
  · exact ⟨_, hs, .inr (.inr (.inr (.inl rfl)))⟩
  · exact ⟨_, hs, .inr (.inr (.inr (.inr (.inl rfl))))⟩
  · exact ⟨_, hs, .inr (.inr (.inr (.inr (.inr rfl))))⟩
  · rcases engineMove_cases hm with rfl | ⟨_, _, ⟨ch, dw, _, ht⟩ | ⟨ch, _, ht⟩ | ht⟩
    · exact ⟨_, hs, .inl rfl⟩
    · exact issued ((sameHardware_setEng ..).trans (sameHardware_spendDraw _)) ht
    all_goals exact issued (sameHardware_setEng ..) ht
  · rcases consumerMove_cases hm with rfl | ⟨_, _, ⟨_, ht⟩ | ⟨_, _, _, _, ht⟩ | ⟨_, _, _, _, _, ht⟩ | ⟨_, ht⟩⟩
    · exact ⟨_, hs, .inl rfl⟩
    all_goals exact issued (sameHardware_setCons ..) ht

/-- The command with this TMO is issued as a poll, or is outstanding and may time out. -/
def MayTimeOut (pend : Option (BitVec 24)) (tmo : BitVec 24) : Prop :=
  (pend = none ∧ tmo = 0#24) ∨ (pend = some tmo ∧ isFinite tmo = true)

/-- The two ways a step times a command out. -/
inductive TimesOut : State → State → Prop where
  | take (s tmo) : s.slot.full = false → MayTimeOut s.pendC tmo →
      TimesOut s (respond (.take tmo) .timeout 0#32 { s with pendC := none })
  | drain (s tmo) : s.drainDone = false → MayTimeOut s.pendH tmo →
      TimesOut s (respond (.wdrain tmo) .timeout 0#32 { s with pendH := none })

/-- The step adds one entry to HIST, a record that answers TIMEOUT. -/
def AnswersTimeout (s t : State) : Prop := ∃ r : CommandRecord, t.hist = s.hist ++ [.command r] ∧ r.sts = .timeout

theorem AnswersTimeout.hist_ne {s t : State} (h : AnswersTimeout s t) : t.hist ≠ s.hist := by
  obtain ⟨r, ht, _⟩ := h
  rw [ht]
  exact fun hself => List.cons_ne_nil _ _ (List.append_right_eq_self.mp hself)

theorem AnswersTimeout.sts_of_complete {p : Port} {cw : Word} {dw : Option Word} {sts : Status} {data : Word} {drawn : Bool}
    {s a : State} (h : AnswersTimeout s (complete p cw dw sts data drawn a)) : sts = .timeout := by
  obtain ⟨r, ht, hr⟩ := h
  obtain rfl := record_of_complete ht
  exact hr

/-- Of the commands a free port runs only a poll in vain answers TIMEOUT. -/
theorem exec_timesOut {i : Instr} {s t : State} (hp : s.pending i.port = none) (h : exec i s = .next t)
    (ht : AnswersTimeout s t) : TimesOut s t := by
  obtain ⟨r, hhist, hsts⟩ := ht
  have hlast : t.hist = s.hist ++ [] ++ [.command r] := by rw [hhist, List.append_nil]
  obtain ⟨_, hend⟩ := (commandEnds_of_exec h).record hlast
  rw [hsts] at hend
  rcases hend with hok | ⟨hpoll, _, _, rfl⟩
  · cases hok
  rcases hpoll with ⟨rfl, hempty⟩ | ⟨rfl, hwait⟩
  · have hpend : s.pendC = none := hp
    have hout := TimesOut.take s 0#24 hempty (.inl ⟨hpend, rfl⟩)
    rwa [← hpend] at hout
  · have hpend : s.pendH = none := hp
    have hout := TimesOut.drain s 0#24 hwait (.inl ⟨hpend, rfl⟩)
    rwa [← hpend] at hout

theorem takeCommand_timesOut {p : Port} {s t : State} (h : takeCommand p s = .next t) (ht : AnswersTimeout s t) :
    TimesOut s t := by
  rcases takeCommand_cases h with rfl | ⟨cw, dw, hp, _, hrun⟩
  · exact absurd rfl ht.hist_ne
  rcases runCommand_cases hrun with ⟨i, hdec, hexec⟩ | ⟨_, rfl⟩
  · exact exec_timesOut (port_of_decode hdec ▸ hp) hexec ht
  · cases ht.sts_of_complete

/-- A completion step that answers TIMEOUT is enabled. -/
theorem AnswersTimeout.of_ite {c : Prop} [Decidable c] {s a : State} (h : AnswersTimeout s (if c then a else s)) :
    c ∧ AnswersTimeout s a := by
  split at h
  · next hc => exact ⟨hc, h⟩
  · exact absurd rfl h.hist_ne

theorem deliveryStep_not_timeout (s : State) : ¬ AnswersTimeout s (deliveryStep s) := by
  intro ht
  unfold deliveryStep at ht
  split at ht
  · exact ht.hist_ne rfl
  · cases ht.of_ite.2.sts_of_complete

theorem finishStep_not_timeout (s : State) : ¬ AnswersTimeout s (finishStep s) := by
  intro ht
  unfold finishStep at ht
  split at ht
  · exact ht.hist_ne rfl
  · cases ht.of_ite.2.sts_of_complete

theorem takeTimeoutStep_timesOut {s : State} (ht : AnswersTimeout s (takeTimeoutStep s)) : TimesOut s (takeTimeoutStep s) := by
  unfold takeTimeoutStep at ht ⊢
  split at ht
  · exact absurd rfl ht.hist_ne
  next tmo hp =>
  obtain ⟨hc, _⟩ := ht.of_ite
  obtain ⟨hfin, hempty⟩ := Bool.and_eq_true_iff.mp hc
  rw [if_pos hc]
  exact .take s tmo (by simpa using hempty) (.inr ⟨hp, hfin⟩)

theorem drainTimeoutStep_timesOut {s : State} (ht : AnswersTimeout s (drainTimeoutStep s)) :
    TimesOut s (drainTimeoutStep s) := by
  unfold drainTimeoutStep at ht ⊢
  split at ht
  · exact absurd rfl ht.hist_ne
  next tmo hp =>
  obtain ⟨hc, _⟩ := ht.of_ite
  obtain ⟨hfin, hwait⟩ := Bool.and_eq_true_iff.mp hc
  rw [if_pos hc]
  exact .drain s tmo (by simpa using hwait) (.inr ⟨hp, hfin⟩)

/-- A step that answers TIMEOUT moves the agents' own side on and times a command out. -/
theorem step_timesOut {s t : State} (h : step s = .next t) (ht : AnswersTimeout s t) : ∃ a, SameHardware s a ∧ TimesOut a t := by
  obtain ⟨a, ha, hmove⟩ := step_portOrCompletion h
  rw [AnswersTimeout, ← ha.hist] at ht
  refine ⟨a, ha, ?_⟩
  rcases hmove with rfl | ⟨p, hp⟩ | rfl | rfl | rfl | rfl
  · exact absurd rfl (AnswersTimeout.hist_ne ht)
  · exact takeCommand_timesOut hp ht
  · exact (deliveryStep_not_timeout a ht).elim
  · exact takeTimeoutStep_timesOut ht
  · exact (finishStep_not_timeout a ht).elim
  · exact drainTimeoutStep_timesOut ht

/-! ### The record of a timeout -/

/-- A TMO that may time out lies strictly between the poll and the indefinite wait (30_encoding.md R77). -/
theorem bounds_of_isFinite {tmo : BitVec 24} (h : isFinite tmo = true) : 0 < tmo.toNat ∧ tmo.toNat < 0xFFFFFF := by
  simp only [isFinite, isPoll, isIndefinite, Bool.and_eq_true, Bool.not_eq_true', beq_eq_false_iff_ne] at h
  obtain ⟨hpoll, hindefinite⟩ := h
  constructor <;> bv_omega

/-- The TMO field of a TAKE's word (30_encoding.md R77). -/
theorem tmoField_take (tmo : BitVec 24) : (Instr.take tmo).cw.extractLsb' 0 24 = tmo :=
  Instr.take.inj (operandsOf_cw (.take tmo))

/-- The TMO field of a WDRAIN's word (30_encoding.md R77). -/
theorem tmoField_wdrain (tmo : BitVec 24) : (Instr.wdrain tmo).cw.extractLsb' 0 24 = tmo :=
  Instr.wdrain.inj (operandsOf_cw (.wdrain tmo))

theorem opNumber_cw (i : Instr) : (i.cw.extractLsb' 28 4).toNat = i.opcode.bits.toNat := congrArg BitVec.toNat (opField_cw i)

/-- The two cases of `MayTimeOut` in the terms of 60_exceptions.md R182. -/
theorem MayTimeOut.poll_or_bounds {pend : Option (BitVec 24)} {tmo : BitVec 24} (h : MayTimeOut pend tmo) :
    (pend = none ∧ tmo = 0#24) ∨ (pend = some tmo ∧ 0 < tmo.toNat ∧ tmo.toNat < 0xFFFFFF) :=
  h.imp_right fun ⟨hp, hfin⟩ => ⟨hp, bounds_of_isFinite hfin⟩

/-- A timeout changes no element but HIST, the ports and PEND. -/
theorem TimesOut.frame {s t : State} (h : TimesOut s t) :
    t.state = s.state ∧ t.bufIdx = s.bufIdx ∧ t.slot = s.slot ∧ t.held = s.held ∧ t.engEn = s.engEn ∧ t.stopArm = s.stopArm ∧
    t.drainDone = s.drainDone ∧ t.initd = s.initd ∧ t.rate = s.rate ∧ t.size = s.size ∧ t.xportEn = s.xportEn ∧
    t.buf = s.buf ∧ t.faults = s.faults := by
  cases h <;> simp

/-- Settles O47: the step times a command out, whose word the record carries. -/
theorem timeoutOnlyWhileTheConditionIsFalse : Obligations.TimeoutOnlyWhileTheConditionIsFalse := by
  intro s t r h ht hsts
  obtain ⟨a, ha, hout⟩ := step_timesOut h ⟨r, ht, hsts⟩
  have hframe := hout.frame
  rw [ha.state, ha.bufIdx, ha.slot, ha.held, ha.engEn, ha.stopArm, ha.drainDone, ha.initd, ha.rate, ha.size, ha.xportEn, ha.buf,
    ha.faults] at hframe
  cases hout with
  | take tmo hempty hmay =>
    obtain rfl := record_of_complete ht
    rw [ha.pendC] at hmay
    refine ⟨rfl, .inl ⟨rfl, opNumber_cw (.take tmo), ha.slot ▸ hempty, ?_, respond_pendC .., ?_⟩, hframe⟩
    · rw [tmoField_take]
      exact hmay.poll_or_bounds
    · exact (respond_pendH ..).trans ha.pendH
  | drain tmo hwait hmay =>
    obtain rfl := record_of_complete ht
    rw [ha.pendH] at hmay
    refine ⟨rfl, .inr ⟨rfl, opNumber_cw (.wdrain tmo), ha.drainDone ▸ hwait, ?_, respond_pendH .., ?_⟩, hframe⟩
    · rw [tmoField_wdrain]
      exact hmay.poll_or_bounds
    · exact (respond_pendC ..).trans ha.pendC

end Sys2Proof.Machine
end

section
/-! Access is by port (60_exceptions.md R191): a command moves only its own port on, so a way to act that answers on one port is no
command of another. -/

namespace Sys2Proof.Machine

/-- A command's rule leaves the position of every other port. -/
theorem exec_pos_other {i : Instr} {s t : State} (h : exec i s = .next t) {p : Port} (hp : p ≠ i.port) :
    (t.port p).pos = (s.port p).pos := by
  rcases (exec_rule h).completes with ⟨_, hports⟩ | ⟨events, r, hhist, hpos⟩
  · rw [hports]
  · obtain ⟨hr, _⟩ := (commandEnds_of_exec h).record hhist
    rw [hpos, if_neg (hr ▸ hp), Nat.add_zero]

/-- An applied EVT moves port E on. -/
theorem event_pos (tc : Bool) (data : Word) (s : State) :
    ((respond (.evt tc) .ok data (applyEvent tc s)).port .engine).pos = (s.port .engine).pos + 1 := by
  rw [← applyEvent_port tc s]
  exact congrArg PortState.pos (respond_port_same (.evt tc) ..)

section
variable {s t : State} (h : RuleStep s t)
include h

/-- Only an answer on port E, the applied EVT, posts. -/
theorem RuleStep.slot_of_enginePort (hpos : (t.port .engine).pos = (s.port .engine).pos) (hfull : t.slot.full = true) :
    t.slot = s.slot := by
  cases h with
  | event tc =>
    rw [event_pos] at hpos
    exact absurd hpos (Nat.succ_ne_self _)
  | init =>
    rw [respond_slot, emit_slot] at hfull
    cases hfull
  | deliver =>
    rw [deliverBlock, respond_slot] at hfull
    cases hfull
  | finish => exact respond_slot ..
  | _ => simp

/-- Only an answer on port C, a delivery or a DONE, takes or releases a block. -/
theorem RuleStep.held_of_consumerPort (hpos : (t.port .consumer).pos = (s.port .consumer).pos) : t.held.valid = s.held.valid := by
  cases h with
  | deliver | release => exact absurd hpos (Nat.succ_ne_self _)
  | event tc => rw [respond_held, applyEvent_held_valid]
  | _ => simp [finishDrain_held]

/-- Past START, STOP and the finish of a WDRAIN, which answer on port H, only the halting EVT moves STATE. -/
theorem RuleStep.state_of_hostPort (hpos : (t.port .host).pos = (s.port .host).pos) (hne : t.state ≠ s.state) :
    s.engEn = true ∧ s.stopArm = true ∧ t.state = .draining ∧ (t.port .engine).pos ≠ (s.port .engine).pos := by
  cases h with
  | start | stop | finish => exact absurd hpos (Nat.succ_ne_self _)
  | event tc hon =>
    rw [respond_state, applyEvent_state] at hne
    have hstop : s.stopArm = true := by
      by_contra hrunning
      exact hne (if_neg hrunning)
    refine ⟨hon, hstop, ?_, ?_⟩
    · rw [respond_state, applyEvent_state, if_pos hstop]
    · rw [event_pos]
      exact Nat.succ_ne_self _
  | _ => exact absurd (by simp) hne

end

/-- Settles O43: the way a command acts, by the port it moves on. -/
theorem eachPortHasItsOwnPowers : Obligations.EachPortHasItsOwnPowers := by
  intro i s t h
  have hr := exec_rule h
  refine ⟨fun hp => hr.slot_of_enginePort (exec_pos_other h hp.symm),
    fun hp => hr.held_of_consumerPort (exec_pos_other h hp.symm), fun hp hne => ?_⟩
  obtain ⟨hon, hstop, ht, hmoved⟩ := hr.state_of_hostPort (exec_pos_other h hp.symm) hne
  refine ⟨?_, hon, hstop, ht⟩
  by_contra hother
  exact hmoved (exec_pos_other h (Ne.symm hother))

end Sys2Proof.Machine
end

section
/-! The machine never stops (60_exceptions.md R180, R187). -/

namespace Sys2Proof.Machine

/-- Settles O11: an enabled turn answers a next state by O13, one that is not enabled the same state by O12. -/
theorem stepNeverStops : Obligations.StepNeverStops := by
  intro s
  rw [step]
  split
  · exact ⟨s, rfl⟩
  next u us _ =>
  cases he : turnEnabled u (s.setSched us) with
  | true =>
    obtain ⟨t, ht, _⟩ := enabledTurnDoesSomething u _ he
    exact ⟨t, ht⟩
  | false => exact ⟨_, disabledTurnChangesNothing u _ he⟩

end Sys2Proof.Machine
end

section
/-! The ends of a run (70_reset_and_hazards.md R222): a fault-free end is one where no turn of the environment is enabled; then each
port is idle or waits, and a reference agent that is not done could go on. -/

namespace Sys2Proof.Machine

/-- No turn of the environment's agents is enabled. -/
def NothingEnabled (env : Environment) (s : State) : Prop := ∀ u, env.includes u = true → turnEnabled u s = false

/-- Settles O56: no stream has a command left, nothing is outstanding, and the reference agents, where present, are done. -/
theorem noStepIsEnabledAtASuccessfulEnd : Obligations.NoStepIsEnabledAtASuccessfulEnd := by
  rintro env s ⟨_, ⟨hpendH, hpendC⟩, hhost, ⟨hcons, hnoConsumer⟩, heng, hengine⟩ u hu
  cases u with
  | command p => cases p <;> simp [turnEnabled, State.port, nextCommand, hhost, hcons, heng]
  | deliver => exact deliver_not_enabled (.inl hpendC)
  | takeTimeout => exact takeTimeout_not_enabled (.inr (.inr hpendC))
  | finish => exact finish_not_enabled (.inl hpendH)
  | drainTimeout => exact drainTimeout_not_enabled (.inr (.inr hpendH))
  | engine m => exact (hengine hu).2 m
  | consumer m => exact absurd hu (ne_true_of_eq_false hnoConsumer)

/-! ### A turn enabled is a step that can be taken -/

/-- Without a fault, progress leads to another state. -/
theorem not_progress_self {s : State} (hf : s.FaultFree) : ¬ Progress s s := by
  rintro (⟨l, r, hhist⟩ | ⟨hnone, hsome⟩ | ⟨hnone, hsome⟩ | hfault)
  · simp at hhist
  · exact hsome hnone
  · exact hsome hnone
  · exact hfault hf

theorem canStep_of_enabled {env : Environment} {s : State} {u : Turn} (hf : s.FaultFree) (hu : env.includes u = true)
    (he : turnEnabled u s = true) : CanStep env s := by
  obtain ⟨t, ht, hprogress⟩ := enabledTurnDoesSomething u s he
  refine ⟨u, hu, fun hself => not_progress_self hf ?_⟩
  cases ht.symm.trans hself
  exact hprogress

theorem nothingEnabled_of_stuck {env : Environment} {s : State} (hf : s.FaultFree) (hstuck : ¬ CanStep env s) :
    NothingEnabled env s := fun _ hu => Bool.eq_false_of_not_eq_true fun he => hstuck (canStep_of_enabled hf hu he)

/-! ### Ports: what stands in them when they take no step -/

/-- An outstanding command that is no poll, and can neither complete nor time out, waits for ever for its signal. -/
theorem waits_indefinitely {pend : Option (BitVec 24)} {signal : Bool} (hpend : pend ≠ none) (hpoll : pend ≠ some 0#24)
    (hcomplete : (pend.isSome && signal) = false) (htimeout : ((pend.map isFinite).getD false && !signal) = false) :
    pend = some 0xFFFFFF#24 ∧ signal = false := by
  obtain ⟨tmo, rfl⟩ := Option.ne_none_iff_exists'.mp hpend
  have hsignal : signal = false := hcomplete
  subst hsignal
  have hnotFinite : isFinite tmo = false := by simpa using htimeout
  have hnotPoll : tmo ≠ 0#24 := fun h => hpoll (congrArg some h)
  have hindefinite : tmo = 0xFFFFFF#24 := by simpa [isFinite, isPoll, isIndefinite, hnotPoll] using hnotFinite
  exact ⟨congrArg some hindefinite, rfl⟩

/-- A stream gives no command when it is exhausted or ends inside a two-word command (log 9). -/
theorem stream_of_nextCommand_none {words : List Word} (h : nextCommand words = none) :
    words = [] ∨ ∃ cw, words = [cw] ∧ twoWords cw = true := by
  unfold nextCommand at h
  split at h
  · exact .inl rfl
  next cw rest =>
  split at h
  · next htwo =>
    split at h
    · exact .inr ⟨cw, rfl, htwo⟩
    · cases h
  · cases h

/-- A port with nothing outstanding that takes no command has an exhausted stream, or a two-word command cut short. -/
theorem stream_of_command_not_enabled {s : State} {p : Port} (hp : s.pending p = none)
    (h : turnEnabled (.command p) s = false) :
    (s.port p).stream = [] ∨ ∃ cw, (s.port p).stream = [cw] ∧ twoWords cw = true := by
  refine stream_of_nextCommand_none ?_
  simpa [turnEnabled, hp] using h

/-! ### The reference engine goes on while ENG_EN = 1 -/

/-- Inside a period an access of each offset is still to make. -/
theorem RingAgent.WithinPeriod.exists_not_made {a : RingAgent} {c : Config} (h : a.WithinPeriod c) :
    ∃ write ch, a.made write ch = false := by
  by_contra hall
  simp only [not_exists, Bool.not_eq_false] at hall
  exact h.notDone ⟨hall true .left, hall true .right, hall false .left, hall false .right⟩

theorem exists_engineEnabled {s : State} (hon : s.engEn = true) (hidle : s.portE.stream = [])
    (h : s.eng.WithinPeriod s.cfg) : ∃ m, engineEnabled m s = true := by
  rcases h.offset.eq_or_lt with hend | hin
  · exact ⟨.event, by simp [engineEnabled, hon, hidle, hend]⟩
  obtain ⟨write, ch, hmade⟩ := h.exists_not_made
  cases write with
  | true => exact ⟨.write ch, by simp [engineEnabled, hon, hidle, hin, hmade]⟩
  | false => exact ⟨.read ch, by simp [engineEnabled, hon, hidle, hin, hmade]⟩

/-! ### The reference consumer always goes on -/

/-- The words of a block: both channels, each offset below P_NS. -/
def blockWords (c : Config) : List (Channel × BitVec 16) := [.left, .right] ×ˢ (List.range c.ns).map (BitVec.ofNat 16)

theorem length_blockWords (c : Config) : (blockWords c).length = 2 * c.ns := by
  simp [blockWords, Nat.two_mul]

theorem offset_of_mem_blockWords {c : Config} {ch : Channel} {off : BitVec 16} (h : (ch, off) ∈ blockWords c) :
    off.toNat < c.ns := by
  obtain ⟨n, hn, rfl⟩ := List.mem_map.mp (List.mem_product.mp h).2
  rw [List.mem_range] at hn
  rwa [toNat_ofNat_offset hn]

theorem nodup_blockWords (c : Config) : (blockWords c).Nodup := by
  refine List.Nodup.product (by decide) (List.nodup_range.map_on fun m hm n hn hmn => ?_)
  rw [List.mem_range] at hm hn
  rw [← toNat_ofNat_offset hm, hmn, toNat_ofNat_offset hn]

/-- Fewer words than the block has cannot be all of its words. -/
theorem LoopAgent.exists_wantsRead {a : LoopAgent} {c : Config} (h : a.seen.length < 2 * c.ns) :
    ∃ ch off, a.wantsRead c ch off = true := by
  have hmore : ¬ blockWords c ⊆ a.seen := fun hsub => by
    have hle := (List.subperm_of_subset (nodup_blockWords c) hsub).length_le
    rw [length_blockWords] at hle
    omega
  obtain ⟨⟨ch, off⟩, hblock, hnew⟩ : ∃ w ∈ blockWords c, w ∉ a.seen := by simpa [List.subset_def] using hmore
  exact ⟨ch, off, by simp [wantsRead, offInRange, offset_of_mem_blockWords hblock, hnew]⟩

/-- The write loop's next word: the first one, the next one of a channel, or the other channel's first. -/
theorem LoopAgent.exists_wantsWrite (a : LoopAgent) (c : Config) : ∃ ch off, a.wantsWrite c ch off = true := by
  cases hs : a.seen with
  | nil => exact ⟨.left, 0#16, by simp [wantsWrite, hs]⟩
  | cons last seen =>
    by_cases hin : last.2.toNat + 1 < c.ns
    · exact ⟨last.1, BitVec.ofNat 16 (last.2.toNat + 1), by
        simp only [wantsWrite, hs, if_pos hin, toNat_ofNat_offset hin, beq_self_eq_true, Bool.and_self]⟩
    · refine ⟨otherChannel last.1, 0#16, ?_⟩
      have hother : otherChannel last.1 ≠ last.1 := by cases last.1 <;> nofun
      simp [wantsWrite, hs, hin, hother]

theorem exists_consumerEnabled {s : State} (hidle : s.portC.stream = []) (hpend : s.pendC = none)
    (h : s.cons.WithinLoop s.cfg) : ∃ m, consumerEnabled m s = true := by
  cases hphase : s.cons.phase with
  | take => exact ⟨.take, by simp [consumerEnabled, hidle, hpend, hphase]⟩
  | read =>
    obtain ⟨ch, off, hwants⟩ := LoopAgent.exists_wantsRead h.notDone
    exact ⟨.read ch off, by simp [consumerEnabled, hidle, hpend, hphase, hwants]⟩
  | write =>
    obtain ⟨ch, off, hwants⟩ := s.cons.exists_wantsWrite s.cfg
    exact ⟨.write ch off 0#32, by simp [consumerEnabled, hidle, hpend, hphase, hwants]⟩
  | release => exact ⟨.release, by simp [consumerEnabled, hidle, hpend, hphase]⟩

/-! ### A stuck state without a wait is a successful end -/

section
variable {env : Environment} {s : State} (hoff : NothingEnabled env s) (hidle : ∀ p, (s.port p).stream = [])
  (hloops : AgentsWithinTheirLoops s)
include hoff hidle hloops

/-- With its ports idle, the reference engine is stuck only when it is off. -/
theorem NothingEnabled.engine_off (href : env.refEngine = true) : s.engEn = false := by
  refine Bool.eq_false_of_not_eq_true fun hon => ?_
  obtain ⟨m, hm⟩ := exists_engineEnabled hon (hidle .engine) ((agentsWithinTheirLoops_iff s).mp hloops).1
  exact ne_true_of_eq_false (hoff (.engine m) href) hm

/-- With port C idle, a reference consumer is never stuck. -/
theorem NothingEnabled.no_consumer (hpend : s.pendC = none) : env.refConsumer = false := by
  refine Bool.eq_false_of_not_eq_true fun href => ?_
  obtain ⟨m, hm⟩ := exists_consumerEnabled (hidle .consumer) hpend ((agentsWithinTheirLoops_iff s).mp hloops).2
  exact ne_true_of_eq_false (hoff (.consumer m) href) hm

theorem NothingEnabled.successfulEnd (hf : s.FaultFree) (hpendH : s.pendH = none) (hpendC : s.pendC = none) :
    SuccessfulEnd env s where
  noFault := hf
  nothingPends := ⟨hpendH, hpendC⟩
  hostDone := hidle .host
  consumerDone := ⟨hidle .consumer, hoff.no_consumer hidle hloops hpendC⟩
  engineDone := ⟨hidle .engine, fun href => ⟨hoff.engine_off hidle hloops href, fun m => hoff (.engine m) href⟩⟩

end

/-- Settles O58: a stuck state without a fault enables nothing, so an outstanding command waits for ever; with none outstanding each
stream is exhausted or cut short, and if none is cut short the end is successful. -/
theorem failedEndIsAFaultOrAWaitNothingLifts : Obligations.FailedEndIsAFaultOrAWaitNothingLifts := by
  rintro env s hcoherent hloops ⟨hstuck, hfailed⟩
  obtain ⟨hnoPollH, hnoPollC⟩ := hcoherent.noPollOutstanding
  by_cases hf : s.FaultFree
  case neg => exact .inl hf
  have hoff := nothingEnabled_of_stuck hf hstuck
  by_cases hpendC : s.pendC = none
  case neg => exact .inr (.inl (waits_indefinitely hpendC hnoPollC (hoff .deliver rfl) (hoff .takeTimeout rfl)))
  by_cases hpendH : s.pendH = none
  case neg => exact .inr (.inr (.inl (waits_indefinitely hpendH hnoPollH (hoff .finish rfl) (hoff .drainTimeout rfl))))
  have hfree : ∀ p, s.pending p = none
    | .host => hpendH
    | .consumer => hpendC
    | .engine => rfl
  by_cases hcut : ∃ p cw, (s.port p).stream = [cw] ∧ twoWords cw = true
  case pos =>
    obtain ⟨p, cw, hstream, htwo⟩ := hcut
    exact .inr (.inr (.inr ⟨p, cw, hstream, (twoWords_iff cw).mp htwo⟩))
  have hidle (p : Port) : (s.port p).stream = [] :=
    (stream_of_command_not_enabled (hfree p) (hoff (.command p) rfl)).resolve_right fun h => hcut ⟨p, h⟩
  exact absurd (hoff.successfulEnd hidle hloops hf hpendH hpendC) hfailed

end Sys2Proof.Machine
end

section
/-! Reset (70_reset_and_hazards.md R210): the reset values, and the invariants the step lemmas keep. -/

namespace Sys2Proof.Machine

/-- The STATUS image after reset: STATE, and every bit but BUFIDX, is 0. -/
theorem statusImage_resetOf (c : Config) : statusImage (State.resetOf c) = 0x00000004#32 := by
  simp only [statusImage, State.resetOf, Held.clear, Slot.empty, StreamState.code]
  decide

/-- After reset every word of BUF is UNDEF. -/
theorem bufWord_resetOf (c : Config) (dir : Dir) (ch : Channel) (half : Bool) (off : BitVec 16) :
    (State.resetOf c).bufWord dir ch half off = none := Memory.get_nil _

/-- Settles O1, row by row of the table. -/
theorem resetPutsEveryElementAtItsValue : Obligations.ResetPutsEveryElementAtItsValue := fun c =>
  ⟨rfl, rfl, rfl, rfl, rfl, rfl, rfl, rfl, rfl, rfl, rfl, bufWord_resetOf c, rfl, rfl, rfl, rfl, statusImage_resetOf c⟩

section
variable (c : Config) (host cons eng : List Word) (sched : List Turn)

/-- BUF is empty. -/
theorem bufWellFormed_loaded : BufWellFormed (State.loaded c host cons eng sched) := ⟨List.Pairwise.nil, nofun⟩

/-- HIST is empty, and every position is 0. -/
theorem positionsCountRecords_loaded : PositionsCountRecords (State.loaded c host cons eng sched) := fun p => by
  cases p <;> rfl

/-- Both reference agents begin. -/
theorem agentsWithinTheirLoops_loaded : AgentsWithinTheirLoops (State.loaded c host cons eng sched) :=
  (agentsWithinTheirLoops_iff _).mpr ⟨RingAgent.start_withinPeriod c, LoopAgent.begin_withinLoop .take c⟩

/-- Before INIT nothing is asked of the reference engine's half. -/
theorem referenceEngineOnly_loaded : ReferenceEngineOnly (State.loaded c host cons [] sched) :=
  ⟨coherent_loaded .., rfl, nofun⟩

/-- The reference consumer is before its TAKE, and holds no block. -/
theorem referenceConsumerOnly_loaded : ReferenceConsumerOnly (State.loaded c host [] eng sched) :=
  ⟨coherent_loaded .., .inl ⟨rfl, rfl, iff_of_true rfl rfl⟩⟩

end

/-- Settles O2, one invariant at a time. -/
theorem resetMeetsTheInvariants : Obligations.ResetMeetsTheInvariants := fun c host cons eng sched =>
  ⟨coherent_loaded .., bufWellFormed_loaded .., positionsCountRecords_loaded c host cons eng sched, agentsWithinTheirLoops_loaded ..,
    referenceEngineOnly_loaded c host cons sched, referenceConsumerOnly_loaded c host eng sched⟩

end Sys2Proof.Machine
end
